-- ==== Sys2Proof/Word.lean ====
section
/-! DEFINITION. The widths of the block's data (00_scope.md R1, R2, R5). -/

namespace Sys2Proof

/-- A byte, "the atomic unit throughout" (R1). -/
abbrev Byte := BitVec 8

/-- A word `(w0, w1, w2, w3)` of four bytes (R2), `w0` in the most significant byte, as R5 lays out
the 128-bit values it is cut from. -/
abbrev Word := BitVec 32

/-- A 128-bit register value: KEY, STATE, RK0 to RK10 in the serial form of R5. -/
abbrev Block := BitVec 128

end Sys2Proof
end

