-- ==== Sys2Proof/Machine/Bytes.lean ====
section
/-! DEFINITION. Bytes, words and matrix places of a 128-bit value (00_scope.md R2 to R5), and the
reading of a 256-entry table printed in sixteen rows of sixteen bytes. -/

namespace Sys2Proof.Machine

/-- `byte(v, i) = v[127-8i : 120-8i]`: byte 0 is the most significant (R5). -/
def byte (v : Block) (i : Nat) : Byte := v.extractLsb' (120 - 8 * i) 8

/-- The value whose byte `i` is `f i`, for `i` in 0..15 (R4, R5). -/
def ofByteFn (f : Nat → Byte) : Block :=
  f 0 ++ f 1 ++ f 2 ++ f 3 ++ f 4 ++ f 5 ++ f 6 ++ f 7 ++
  f 8 ++ f 9 ++ f 10 ++ f 11 ++ f 12 ++ f 13 ++ f 14 ++ f 15

/-- `s[r,c] = byte(s, 4c + r)`: row `r`, column `c` of the matrix (R3, R4). -/
def cell (s : Block) (r c : Nat) : Byte := byte s (4 * c + r)

/-- `col(s, c)`, also word `c` of a round key: bytes `4c` to `4c + 3` (R2, R3). -/
def col (s : Block) (c : Nat) : Word := s.extractLsb' (96 - 32 * c) 32

/-- The value whose column `c` is `f c`, for `c` in 0..3. -/
def ofColFn (f : Nat → Word) : Block := f 0 ++ f 1 ++ f 2 ++ f 3

/-- Byte `wr` of a word `(w0, w1, w2, w3)` (R2). -/
def wordByte (w : Word) (r : Nat) : Byte := w.extractLsb' (24 - 8 * r) 8

/-- The word `(w0, w1, w2, w3)` (R2). -/
def ofWordBytes (w0 w1 w2 w3 : Byte) : Word := w0 ++ w1 ++ w2 ++ w3

/-- Entry `16h + l` of a table given by its rows: column `l` of row `h`, as the spec prints it. -/
def tableEntry (rows : List Block) (a : Byte) : Byte :=
  byte (rows.getD (a.toNat / 16) 0#128) (a.toNat % 16)

end Sys2Proof.Machine
end

