-- ==== Sys2Proof/Config.lean ====
section
/-! DEFINITION. What is fixed for this hardware (00_scope.md, section 4), and the one parameter the
spec leaves open. -/

namespace Sys2Proof

/-- Nr, the number of rounds; it is also the index of the last round key (00_scope.md, section 4). -/
abbrev Config.lastRound : Nat := 10

/-- NRK, the number of round keys (R7, R16). -/
abbrev Config.roundKeys : Nat := 11

/-- `T_STEP`, the time of one sequencer step: OPEN, and read by no rule (R12, R150, U5) and by no
definition of this model. It has no body, so nothing can be proved of its value (log entry 7). -/
opaque Config.tStep : Nat

end Sys2Proof
end

