-- ==== Sys2Proof/Machine/State.lean ====
section
/-! DEFINITION. The machine's state (10_state.md) as plain data, the state after reset, and the
reasons a step can stop. -/

namespace Sys2Proof.Machine

/-- A 128-bit data register: its bits, and whether anything has written it since reset. A register
with `written = false` "holds no value" (R11, R33); the bits then are not the hardware's. -/
structure Reg where
  value : Block
  written : Bool
deriving DecidableEq, Repr

/-- The content of a data register after reset: no value (R33, R142). The bits behind it are 0, a
DESIGN CHOICE: the spec gives none; unsafe (log entry 1). -/
def Reg.noValue : Reg := { value := 0#128, written := false }

/-- A register that holds `v`. -/
def Reg.of (v : Block) : Reg := { value := v, written := true }

/-- STATUS.DIR (R21): which of ENCRYPT (0) and DECRYPT (1) was accepted last. -/
inductive Dir where
  | encrypt
  | decrypt
deriving DecidableEq, Repr

/-- STATUS.PHASE (R23). -/
inductive Phase where
  | idle
  | init
  | rnd
  | final
deriving DecidableEq, Repr

/-- STATUS.ECODE (R22, R127). Codes 5 to 15 are never written (R22, U13), so they have no name. -/
inductive ECode where
  | none
  | illegalOp
  | noSchedule
  | badRound
  | busy
deriving DecidableEq, Repr

/-- What the host does on its turns (R152, R59). -/
inductive HostMove where
  /-- The bytes of one transaction (R48). -/
  | send (bytes : List Byte)
  /-- POLL: read STATUS, and again on the host's next turn until BUSY reads 0 (R59). -/
  | poll
  /-- Assert the reset input (R51, R142). -/
  | reset
deriving DecidableEq, Repr

/-- Whose event comes next in the total order (R43): the host's or the sequencer's. -/
inductive Turn where
  | host
  | sequencer
deriving DecidableEq, Repr

@[ext]
structure State where
  /-- KEY (R14). -/
  key : Reg
  /-- STATE (R15). -/
  state : Reg
  /-- RK0 to RK10 (R16). -/
  rk : Vector Reg 11
  /-- STATUS.BUSY (R19). -/
  busy : Bool
  /-- STATUS.KV (R20). -/
  kv : Bool
  /-- STATUS.DIR (R21). -/
  dir : Dir
  /-- STATUS.ECODE (R22). -/
  ecode : ECode
  /-- STATUS.PHASE (R23). -/
  phase : Phase
  /-- STATUS.ROUND (R24). -/
  round : BitVec 4
  /-- The model's own: what the host has still to do, first move first (R43, R152; log entry 3). -/
  program : List HostMove
  /-- The model's own: whose the events to come are, in the total order of R43 (log entry 3). -/
  order : List Turn
  /-- The model's own: the bytes the block has given back for reads (R48, R115; log entry 5). -/
  output : List Byte
  /-- The model's own: this run has recorded `model_fault(UNINIT)` (R11, R140; log entry 2). -/
  uninit : Bool
deriving DecidableEq, Repr

/-- The model faults that stop a step (R140). They are no hardware signals. -/
inductive Fault where
  /-- Raised by a read of `LOG[0x00]` (R66). No step does it: `gmul_tab` tests for zero first (R67).
  Safe: the model stops. -/
  | logZero
  /-- Raised by the sequencer when BUSY = 1 and (PHASE, DIR, ROUND) is in no row of R101's table
  (R110). No run from reset reaches it (R28). Safe: the model stops. -/
  | unreachable
deriving DecidableEq, Repr

/-- Why the model gives an event no meaning. -/
inductive Refusal where
  /-- Raised by `exec` for an instruction without a meaning yet. Safe. -/
  | notModelled (mnemonic : String)
  /-- Raised by the host's turn when the bytes it sends are not exactly one transaction, its payload
  shorter or longer than its register: the interface cannot express it and the block never sees it
  (R39, R122, R152, U12). Safe (log entry 6). -/
  | notATransaction
deriving DecidableEq, Repr

/-- The outcome of a step of this machine. -/
abbrev Outcome := Host.Outcome State Fault Refusal

/-- The machine right after reset (R33, R142), with nothing for the host to do and nothing given back. -/
def State.reset : State where
  key := Reg.noValue
  state := Reg.noValue
  rk := Vector.replicate 11 Reg.noValue
  busy := false
  kv := false
  dir := .encrypt
  ecode := .none
  phase := .idle
  round := 0#4
  program := []
  order := []
  output := []
  uninit := false

end Sys2Proof.Machine
end

