-- ==== Sys2Proof/Machine/Field.lean ====
section
/-! DEFINITION. GF(2^8) arithmetic, its tables and the round constants (40_gf_arith.md). Every
function is pure (R9); the tables are constants, no part of State (R8, R31). -/

namespace Sys2Proof.Machine

/-- Multiplication by `x` (R63). -/
def xtime (a : Byte) : Byte :=
  if a.getLsbD 7 then (a <<< 1) ^^^ 0x1B#8 else a <<< 1

/-- One pass of the loop of R62 for bit `i` of `b`, on the pair of the product so far and `a`. -/
def gmulPass (b : Byte) (pa : Byte × Byte) (i : Nat) : Byte × Byte :=
  (if b.getLsbD i then pa.1 ^^^ pa.2 else pa.1, xtime pa.2)

/-- `gmul(a, b)`: the product modulo `x^8 + x^4 + x^3 + x + 1`, by the loop of R62. -/
def gmul (a b : Byte) : Byte :=
  ((List.range 8).foldl (gmulPass b) (0x00#8, a)).1

/-- The rows of EXP as R64 prints them. -/
def expRows : List Block :=
  [0x0103050f113355ff1a2e7296a1f81335#128,
   0x5fe13848d87395a4f702060a1e2266aa#128,
   0xe5345ce43759eb266abed97090abe631#128,
   0x53f5040c143c44cc4fd168b8d36eb2cd#128,
   0x4cd467a9e03b4dd762a6f10818287888#128,
   0x839eb9d06bbddc7f8198b3ce49db769a#128,
   0xb5c457f9103050f00b1d2769bbd661a3#128,
   0xfe192b7d8792adec2f7193aee92060a0#128,
   0xfb163a4ed26db7c25de73256fa153f41#128,
   0xc35ee23d47c940c05bed2c749cbfda75#128,
   0x9fbad564acef2a7e829dbcdf7a8e8980#128,
   0x9bb6c158e82365afea256fb1c843c554#128,
   0xfc1f2163a5f407091b2d7799b0cb46ca#128,
   0x45cf4ade798b8691a8e33e42c651f30e#128,
   0x12365aee297b8d8c8f8a8594a7f20d17#128,
   0x394bdd7c8497a2fd1c246cb4c752f601#128]

/-- `EXP[i]`, the powers of 0x03 (R64). -/
def expTable (i : Byte) : Byte := tableEntry expRows i

/-- The rows of LOG as R66 prints them. The place of `LOG[0x00]`, which has no value, is filled with
00 and never read: `readLog` stops first. -/
def logRows : List Block :=
  [0x0000190132021ac64bc71b6833eedf03#128,
   0x6404e00e348d81ef4c7108c8f8691cc1#128,
   0x7dc21db5f9b9276a4de4a6729ac90978#128,
   0x652f8a05210fe12412f082453593da8e#128,
   0x968fdbbd36d0ce94135cd2f140468338#128,
   0x66ddfd30bf068b62b325e29822889110#128,
   0x7e6e48c3a3b61e423a6b2854fa853dba#128,
   0x2b790a159b9f5eca4ed4ace5f373a757#128,
   0xaf58a850f4ead6744faee9d5e7e6ade8#128,
   0x2cd7757aeb160bf559cb5fb09ca951a0#128,
   0x7f0cf66f17c449ecd8431f2da4767bb7#128,
   0xccbb3e5afb60b1863b52a16caa55299d#128,
   0x97b2879061bedcfcbc95cfcd373f5bd1#128,
   0x5339843c41a26d47142a9e5d56f2d3ab#128,
   0x441192d923202e89b47cb8267799e3a5#128,
   0x674aeddec531fe180d638c80c0f77007#128]

/-- A read of `LOG[a]`. `LOG[0x00]` has no value: `model_fault(LOG_ZERO)` (R66, R140). -/
def readLog (a : Byte) : Except Fault Byte :=
  if a = 0x00#8 then .error .logZero else .ok (tableEntry logRows a)

/-- The table form of `gmul` (R67): zero operands first, then `EXP` of the sum of the logarithms, less
255 where it exceeds 255. -/
def gmulTab (a b : Byte) : Except Fault Byte :=
  if a = 0x00#8 ∨ b = 0x00#8 then .ok 0x00#8
  else
    match readLog a, readLog b with
    | .ok la, .ok lb =>
      let s := la.toNat + lb.toNat
      .ok (expTable (BitVec.ofNat 8 (if 255 < s then s - 255 else s)))
    | .error e, _ => .error e
    | _, .error e => .error e

/-- The multiplicative inverse, with `inv(0x00) = 0x00` (R68). -/
def inv (a : Byte) : Byte :=
  match readLog a with
  | .ok l => expTable (BitVec.ofNat 8 ((255 - l.toNat) % 255))
  | .error _ => 0x00#8

/-- The rows of MUL02 as R69 prints them. -/
def mul02Rows : List Block :=
  [0x00020406080a0c0e10121416181a1c1e#128,
   0x20222426282a2c2e30323436383a3c3e#128,
   0x40424446484a4c4e50525456585a5c5e#128,
   0x60626466686a6c6e70727476787a7c7e#128,
   0x80828486888a8c8e90929496989a9c9e#128,
   0xa0a2a4a6a8aaacaeb0b2b4b6b8babcbe#128,
   0xc0c2c4c6c8caccced0d2d4d6d8dadcde#128,
   0xe0e2e4e6e8eaeceef0f2f4f6f8fafcfe#128,
   0x1b191f1d131117150b090f0d03010705#128,
   0x3b393f3d333137352b292f2d23212725#128,
   0x5b595f5d535157554b494f4d43414745#128,
   0x7b797f7d737177756b696f6d63616765#128,
   0x9b999f9d939197958b898f8d83818785#128,
   0xbbb9bfbdb3b1b7b5aba9afada3a1a7a5#128,
   0xdbd9dfddd3d1d7d5cbc9cfcdc3c1c7c5#128,
   0xfbf9fffdf3f1f7f5ebe9efede3e1e7e5#128]

/-- The rows of MUL03 as R69 prints them. -/
def mul03Rows : List Block :=
  [0x000306050c0f0a09181b1e1d14171211#128,
   0x303336353c3f3a39282b2e2d24272221#128,
   0x606366656c6f6a69787b7e7d74777271#128,
   0x505356555c5f5a59484b4e4d44474241#128,
   0xc0c3c6c5cccfcac9d8dbdeddd4d7d2d1#128,
   0xf0f3f6f5fcfffaf9e8ebeeede4e7e2e1#128,
   0xa0a3a6a5acafaaa9b8bbbebdb4b7b2b1#128,
   0x909396959c9f9a99888b8e8d84878281#128,
   0x9b989d9e97949192838085868f8c898a#128,
   0xaba8adaea7a4a1a2b3b0b5b6bfbcb9ba#128,
   0xfbf8fdfef7f4f1f2e3e0e5e6efece9ea#128,
   0xcbc8cdcec7c4c1c2d3d0d5d6dfdcd9da#128,
   0x5b585d5e57545152434045464f4c494a#128,
   0x6b686d6e67646162737075767f7c797a#128,
   0x3b383d3e37343132232025262f2c292a#128,
   0x0b080d0e07040102131015161f1c191a#128]

/-- The rows of MUL09 as R69 prints them. -/
def mul09Rows : List Block :=
  [0x0009121b242d363f48415a536c657e77#128,
   0x9099828bb4bda6afd8d1cac3fcf5eee7#128,
   0x3b3229201f160d04737a6168575e454c#128,
   0xaba2b9b08f869d94e3eaf1f8c7ced5dc#128,
   0x767f646d525b40493e372c251a130801#128,
   0xe6eff4fdc2cbd0d9aea7bcb58a839891#128,
   0x4d445f5669607b72050c171e2128333a#128,
   0xddd4cfc6f9f0ebe2959c878eb1b8a3aa#128,
   0xece5fef7c8c1dad3a4adb6bf8089929b#128,
   0x7c756e6758514a43343d262f1019020b#128,
   0xd7dec5ccf3fae1e89f968d84bbb2a9a0#128,
   0x474e555c636a71780f061d142b223930#128,
   0x9a938881beb7aca5d2dbc0c9f6ffe4ed#128,
   0x0a0318112e273c35424b5059666f747d#128,
   0xa1a8b3ba858c979ee9e0fbf2cdc4dfd6#128,
   0x3138232a151c070e79706b625d544f46#128]

/-- The rows of MUL0B as R69 prints them. -/
def mul0bRows : List Block :=
  [0x000b161d2c273a3158534e45747f6269#128,
   0xb0bba6ad9c978a81e8e3fef5c4cfd2d9#128,
   0x7b706d66575c414a2328353e0f041912#128,
   0xcbc0ddd6e7ecf1fa9398858ebfb4a9a2#128,
   0xf6fde0ebdad1ccc7aea5b8b38289949f#128,
   0x464d505b6a617c771e1508033239242f#128,
   0x8d869b90a1aab7bcd5dec3c8f9f2efe4#128,
   0x3d362b20111a070c656e737849425f54#128,
   0xf7fce1eadbd0cdc6afa4b9b28388959e#128,
   0x474c515a6b607d761f1409023338252e#128,
   0x8c879a91a0abb6bdd4dfc2c9f8f3eee5#128,
   0x3c372a21101b060d646f727948435e55#128,
   0x010a171c2d263b3059524f44757e6368#128,
   0xb1baa7ac9d968b80e9e2fff4c5ced3d8#128,
   0x7a716c67565d404b2229343f0e051813#128,
   0xcac1dcd7e6edf0fb9299848fbeb5a8a3#128]

/-- The rows of MUL0D as R69 prints them. -/
def mul0dRows : List Block :=
  [0x000d1a1734392e236865727f5c51464b#128,
   0xd0ddcac7e4e9fef3b8b5a2af8c81969b#128,
   0xbbb6a1ac8f829598d3dec9c4e7eafdf0#128,
   0x6b66717c5f524548030e1914373a2d20#128,
   0x6d60777a5954434e05081f12313c2b26#128,
   0xbdb0a7aa8984939ed5d8cfc2e1ecfbf6#128,
   0xd6dbccc1e2eff8f5beb3a4a98a87909d#128,
   0x060b1c11323f28256e6374795a57404d#128,
   0xdad7c0cdeee3f4f9b2bfa8a5868b9c91#128,
   0x0a07101d3e332429626f7875565b4c41#128,
   0x616c7b7655584f420904131e3d30272a#128,
   0xb1bcaba685889f92d9d4c3ceede0f7fa#128,
   0xb7baada0838e9994dfd2c5c8ebe6f1fc#128,
   0x676a7d70535e49440f0215183b36212c#128,
   0x0c01161b3835222f64697e73505d4a47#128,
   0xdcd1c6cbe8e5f2ffb4b9aea3808d9a97#128]

/-- The rows of MUL0E as R69 prints them. -/
def mul0eRows : List Block :=
  [0x000e1c123836242a707e6c624846545a#128,
   0xe0eefcf2d8d6c4ca909e8c82a8a6b4ba#128,
   0xdbd5c7c9e3edfff1aba5b7b9939d8f81#128,
   0x3b352729030d1f114b455759737d6f61#128,
   0xada3b1bf959b8987ddd3c1cfe5ebf9f7#128,
   0x4d43515f757b69673d33212f050b1917#128,
   0x76786a644e40525c06081a143e30222c#128,
   0x96988a84aea0b2bce6e8faf4ded0c2cc#128,
   0x414f5d537977656b313f2d230907151b#128,
   0xa1afbdb39997858bd1dfcdc3e9e7f5fb#128,
   0x9a948688a2acbeb0eae4f6f8d2dccec0#128,
   0x7a746668424c5e500a041618323c2e20#128,
   0xece2f0fed4dac8c69c92808ea4aab8b6#128,
   0x0c02101e343a28267c72606e444a5856#128,
   0x37392b250f01131d47495b557f71636d#128,
   0xd7d9cbc5efe1f3fda7a9bbb59f91838d#128]

/-- `MULk[a]` for `k` in 0x02, 0x03, 0x09, 0x0B, 0x0D and 0x0E (R69); no other `k` has a table. -/
def mulTable (k : Byte) (a : Byte) : Option Byte :=
  if k = 0x02#8 then some (tableEntry mul02Rows a)
  else if k = 0x03#8 then some (tableEntry mul03Rows a)
  else if k = 0x09#8 then some (tableEntry mul09Rows a)
  else if k = 0x0B#8 then some (tableEntry mul0bRows a)
  else if k = 0x0D#8 then some (tableEntry mul0dRows a)
  else if k = 0x0E#8 then some (tableEntry mul0eRows a)
  else none

/-- The ten round constants (R70). -/
def rconTable : List Byte :=
  [0x01#8, 0x02#8, 0x04#8, 0x08#8, 0x10#8, 0x20#8, 0x40#8, 0x80#8, 0x1B#8, 0x36#8]

/-- `RCON[j]` for `j` in 0..9 (R70); the key schedule reads no other entry (R81). -/
def rcon (j : Nat) : Byte := rconTable.getD j 0x00#8

end Sys2Proof.Machine
end

