-- ==== Sys2Proof/Machine/KeySchedule.lean ====
section
/-! DEFINITION. The key schedule (42_key_expansion.md). -/

namespace Sys2Proof.Machine

/-- `rol`: the word rotated left by one byte (R79). -/
def rol (w : Word) : Word :=
  ofWordBytes (wordByte w 1) (wordByte w 2) (wordByte w 3) (wordByte w 0)

/-- `ssub`: every byte of the word through SBOX (R80). -/
def ssub (w : Word) : Word :=
  ofWordBytes (sbox (wordByte w 0)) (sbox (wordByte w 1)) (sbox (wordByte w 2))
    (sbox (wordByte w 3))

/-- `t_i`: the round word, with `RCON[i-1]` on its first byte only (R81). -/
def roundWord (i : Nat) (p3 : Word) : Word :=
  ssub (rol p3) ^^^ ofWordBytes (rcon (i - 1)) 0x00#8 0x00#8 0x00#8

/-- `KeyRound(i, p)`: a chain of four XORs (R82). -/
def keyRound (i : Nat) (p : Block) : Block :=
  let t := roundWord i (col p 3)
  let n0 := col p 0 ^^^ t
  let n1 := n0 ^^^ col p 1
  let n2 := n1 ^^^ col p 2
  let n3 := n2 ^^^ col p 3
  n0 ++ n1 ++ n2 ++ n3

/-- Round key `i` of the schedule of `k`, by the recurrence of R83. -/
def roundKey (k : Block) : Nat → Block
  | 0 => k
  | i + 1 => keyRound (i + 1) (roundKey k i)

/-- `KeyExpansion(K)`: the schedule of eleven round keys (R7, R83). -/
def keyExpansion (k : Block) : Vector Block 11 := Vector.ofFn fun i => roundKey k i.val

end Sys2Proof.Machine
end

