-- ==== Sys2Proof/Machine/RegisterMap.lean ====
section
/-! DEFINITION. The register index space (20_memory.md R35) and the payload width of each index
(30_encoding.md R49). -/

namespace Sys2Proof.Machine

/-- Index of CMD (R35). -/
def cmdIdx : BitVec 5 := 0x00#5

/-- Index of STATUS (R35). -/
def statusIdx : BitVec 5 := 0x01#5

/-- Index of KEY (R35). -/
def keyIdx : BitVec 5 := 0x02#5

/-- Index of STATE (R35). -/
def stateIdx : BitVec 5 := 0x03#5

/-- Indices of RK0 to RK10: 0x10 to 0x1A (R35). -/
def isRoundKeyIdx (idx : BitVec 5) : Bool := 0x10 ≤ idx.toNat && idx.toNat ≤ 0x1A

/-- Reserved indices: 0x04 to 0x0F and 0x1B to 0x1F (R35). -/
def isReservedIdx (idx : BitVec 5) : Bool :=
  (0x04 ≤ idx.toNat && idx.toNat ≤ 0x0F) || 0x1B ≤ idx.toNat

/-- The reserved index that stands for a header whose bits 6:5 are not 00, which is "treated as an
access to a reserved index" (R50). Every reserved index acts alike (R121, R126). DESIGN CHOICE of
the one named; safe (log entry 4). -/
def reservedHeaderIdx : BitVec 5 := 0x04#5

/-- The payload length in bytes (R49): 2 for STATUS, 16 for KEY, STATE and RK0 to RK10, 1 for CMD and
every reserved index. -/
def payloadBytes (idx : BitVec 5) : Nat :=
  if idx = statusIdx then 2
  else if idx = keyIdx || idx = stateIdx || isRoundKeyIdx idx then 16
  else 1

end Sys2Proof.Machine
end

