-- ==== Sys2Proof/Syntax.lean ====
section
/-! DEFINITION. The instructions: one constructor per row of spec/opcode_table.json (R54, R115,
R122). The first eleven are commands (the payload byte of a write to CMD), the last two the host's
register transactions. -/

namespace Sys2Proof

inductive Instr where
  /-- NOP, command byte 0x00 (R112). -/
  | nop
  /-- EXPAND, command byte 0x01 (R85). -/
  | expand
  /-- ENCRYPT, command byte 0x02 (R113). -/
  | encrypt
  /-- DECRYPT, command byte 0x03 (R114). -/
  | decrypt
  /-- SUB_BYTES, command byte 0x04 (R77). -/
  | subBytes
  /-- INV_SUB_BYTES, command byte 0x05 (R78). -/
  | invSubBytes
  /-- SHIFT_ROWS, command byte 0x06 (R93). -/
  | shiftRows
  /-- INV_SHIFT_ROWS, command byte 0x07 (R94). -/
  | invShiftRows
  /-- MIX_COLUMNS, command byte 0x08 (R95). -/
  | mixColumns
  /-- INV_MIX_COLUMNS, command byte 0x09 (R96). -/
  | invMixColumns
  /-- ADD_ROUND_KEY n, command byte `(n << 4) | 0x0A` (R97); all sixteen `n` are encodings (R55). -/
  | addRoundKey (n : BitVec 4)
  /-- RD idx, header `000IIIII` (R115). -/
  | rd (idx : BitVec 5)
  /-- WR idx, v: header `100IIIII`, then the payload `v` of the register's width (R122). The payload
  is the low end of the 128 bits; `Instr.wf` bounds it by the width of R49. -/
  | wr (idx : BitVec 5) (v : Block)
deriving DecidableEq, Repr

end Sys2Proof
end

