-- ==== Sys2Proof/WellFormed.lean ====
section
/-! DEFINITION. Which instructions the encodings of 30_encoding.md can express. -/

namespace Sys2Proof

/-- A write's payload has exactly the register's width (R39, R49, R122): as a 128-bit value, nothing
stands above that width. Every other instruction's fields take every value (R48, R53, R55). -/
def Instr.wf : Instr → Bool
  | .nop => true
  | .expand => true
  | .encrypt => true
  | .decrypt => true
  | .subBytes => true
  | .invSubBytes => true
  | .shiftRows => true
  | .invShiftRows => true
  | .mixColumns => true
  | .invMixColumns => true
  | .addRoundKey _ => true
  | .rd _ => true
  | .wr idx v => v.toNat < 2 ^ (8 * Machine.payloadBytes idx)

end Sys2Proof
end

