-- ==== Sys2Proof/Decode.lean ====
section
/-! DEFINITION. Decoding and encoding of transactions and commands (30_encoding.md). A transaction
is a header byte and, for a write, a payload (R48, R49); a command is one byte, the payload of a
write to CMD (R52, R55). The two formats share the byte values, so the decoder is told which it
reads: the block knows it from where the byte stands. -/

namespace Sys2Proof

/-- The two formats of the opcode table: "CMD" (R52) and "TX" (R48). -/
inductive Format where
  | command
  | transaction
deriving DecidableEq, Repr

/-- Why bytes decode to no instruction. -/
inductive DecodeError where
  /-- There is no byte to read. -/
  | noByte
  /-- A RESERVED command byte (R55, R56). -/
  | reservedCommand
  /-- A write's payload is not all there: no transaction of the block (R39, R49). -/
  | shortPayload
deriving DecidableEq, Repr

/-- The low `n` bytes of `v`, most significant byte first (R37). -/
def bytesOf (n : Nat) (v : Block) : List Byte :=
  (List.range n).map fun j => v.extractLsb' (8 * (n - 1 - j)) 8

/-- The value of a payload, most significant byte first (R37). -/
def ofBytes (bs : List Byte) : Block :=
  bs.foldl (fun v b => (v <<< 8) ||| b.setWidth 128) 0#128

/-- The operation code field of a command byte, bits 3:0 (R52). -/
def opField (c : Byte) : BitVec 4 := c.extractLsb' 0 4

/-- The round-key index operand of a command byte, bits 7:4 (R52, R53). -/
def rndField (c : Byte) : BitVec 4 := c.extractLsb' 4 4

/-- The opcode map of R54: the command an operation code selects, with the operand RND. -/
def commandOf (op rnd : BitVec 4) : Except DecodeError Instr :=
  if op = 0x0#4 then .ok .nop
  else if op = 0x1#4 then .ok .expand
  else if op = 0x2#4 then .ok .encrypt
  else if op = 0x3#4 then .ok .decrypt
  else if op = 0x4#4 then .ok .subBytes
  else if op = 0x5#4 then .ok .invSubBytes
  else if op = 0x6#4 then .ok .shiftRows
  else if op = 0x7#4 then .ok .invShiftRows
  else if op = 0x8#4 then .ok .mixColumns
  else if op = 0x9#4 then .ok .invMixColumns
  else if op = 0xA#4 then .ok (.addRoundKey rnd)
  else .error .reservedCommand

/-- `decode` of R55: RESERVED where OP is 0xB or more, or where RND is not 0 and OP is not 0xA. -/
def decodeCommand (c : Byte) : Except DecodeError Instr :=
  if 0xB ≤ (opField c).toNat then .error .reservedCommand
  else if opField c ≠ 0xA#4 ∧ rndField c ≠ 0x0#4 then .error .reservedCommand
  else commandOf (opField c) (rndField c)

/-- Bit 7 of a header: 1 = write (R48). -/
def headerIsWrite (h : Byte) : Bool := h.getLsbD 7

/-- The index a header names: bits 4:0 where bits 6:5 are 00 (R48), a reserved index otherwise
(R50). -/
def headerIdx (h : Byte) : BitVec 5 :=
  if h.extractLsb' 5 2 = 0#2 then h.extractLsb' 0 5 else Machine.reservedHeaderIdx

/-- One transaction and the bytes after it (R48, R49). -/
def decodeTransaction (h : Byte) (rest : List Byte) : Except DecodeError (Instr × List Byte) :=
  if headerIsWrite h then
    if rest.length < Machine.payloadBytes (headerIdx h) then .error .shortPayload
    else .ok (.wr (headerIdx h) (ofBytes (rest.take (Machine.payloadBytes (headerIdx h)))),
      rest.drop (Machine.payloadBytes (headerIdx h)))
  else .ok (.rd (headerIdx h), rest)

/-- The decoder: total on any bytes; the instruction at their front in the format given, and the
bytes after it. -/
def decode : Format → List Byte → Except DecodeError (Instr × List Byte)
  | _, [] => .error .noByte
  | .command, c :: rest =>
    match decodeCommand c with
    | .ok i => .ok (i, rest)
    | .error e => .error e
  | .transaction, h :: rest => decodeTransaction h rest

/-- The format an instruction is encoded in. -/
def formatOf : Instr → Format
  | .nop => .command
  | .expand => .command
  | .encrypt => .command
  | .decrypt => .command
  | .subBytes => .command
  | .invSubBytes => .command
  | .shiftRows => .command
  | .invShiftRows => .command
  | .mixColumns => .command
  | .invMixColumns => .command
  | .addRoundKey _ => .command
  | .rd _ => .transaction
  | .wr _ _ => .transaction

/-- The encoder, from the patterns of R48 (`W00IIIII`, then the payload) and R54. -/
def encode : Instr → List Byte
  | .nop => [0x00#8]
  | .expand => [0x01#8]
  | .encrypt => [0x02#8]
  | .decrypt => [0x03#8]
  | .subBytes => [0x04#8]
  | .invSubBytes => [0x05#8]
  | .shiftRows => [0x06#8]
  | .invShiftRows => [0x07#8]
  | .mixColumns => [0x08#8]
  | .invMixColumns => [0x09#8]
  | .addRoundKey n => [n ++ 0xA#4]
  | .rd idx => [0b000#3 ++ idx]
  | .wr idx v => (0b100#3 ++ idx) :: bytesOf (Machine.payloadBytes idx) v

/-- The transaction that carries a command: `CMD <mnemonic>` is `WR CMD, <byte>` (R52, R59). A
transaction is carried by itself. -/
def carrier (i : Instr) : Instr :=
  match formatOf i with
  | .command => .wr Machine.cmdIdx (ofBytes (encode i))
  | .transaction => i

/-- The bytes the host sends for an instruction. -/
def wireBytes (i : Instr) : List Byte := encode (carrier i)

/-- The match value of an instruction's row of spec/opcode_table.json (R48, R54). -/
def tableMatch : Instr → Byte
  | .nop => 0x00#8
  | .expand => 0x01#8
  | .encrypt => 0x02#8
  | .decrypt => 0x03#8
  | .subBytes => 0x04#8
  | .invSubBytes => 0x05#8
  | .shiftRows => 0x06#8
  | .invShiftRows => 0x07#8
  | .mixColumns => 0x08#8
  | .invMixColumns => 0x09#8
  | .addRoundKey _ => 0x0A#8
  | .rd _ => 0x00#8
  | .wr _ _ => 0x80#8

/-- The mask of an instruction's row of spec/opcode_table.json (R48, R54). -/
def tableMask : Instr → Byte
  | .nop => 0xFF#8
  | .expand => 0xFF#8
  | .encrypt => 0xFF#8
  | .decrypt => 0xFF#8
  | .subBytes => 0xFF#8
  | .invSubBytes => 0xFF#8
  | .shiftRows => 0xFF#8
  | .invShiftRows => 0xFF#8
  | .mixColumns => 0xFF#8
  | .invMixColumns => 0xFF#8
  | .addRoundKey _ => 0x0F#8
  | .rd _ => 0xE0#8
  | .wr _ _ => 0xE0#8

/-- The bytes of a table word, the first byte in its low bits. -/
def tableBytes (nbits w : Nat) : List Byte :=
  (List.range (nbits / 8)).map fun j => BitVec.ofNat 8 (w >>> (8 * j))

/-- Zero bytes for the part of a transaction's payload that the bytes do not hold. -/
def zeroPayload (bs : List Byte) : List Byte :=
  match bs with
  | [] => []
  | h :: given =>
    if headerIsWrite h then
      List.replicate (Machine.payloadBytes (headerIdx h) - given.length) 0#8
    else []

/-- The transaction bytes that carry a table word. A one-byte word that is a command byte is a
command, carried by a write of CMD; every other word is a transaction, its payload completed by
zeros. DESIGN CHOICE: the table's two formats share the byte values (log entry 8). -/
def tableLayout (nbits w : Nat) : List Byte :=
  match tableBytes nbits w with
  | [] => []
  | h :: given =>
    match given, decodeCommand h with
    | [], .ok i => wireBytes i
    | _, _ => (h :: given) ++ zeroPayload (h :: given)

/-- The instruction the decoder reads from a word numbered as spec/opcode_table.json numbers it. -/
def decodeTableWord (nbits w : Nat) : Option Instr :=
  match tableBytes nbits w with
  | [] => none
  | h :: given =>
    match given, decode .command [h] with
    | [], .ok (i, _) => some i
    | _, _ =>
      match decode .transaction ((h :: given) ++ zeroPayload (h :: given)) with
      | .ok (i, _) => some i
      | .error _ => none

end Sys2Proof
end

