-- ==== Sys2Proof/Machine/Flags.lean ====
section
/-! DEFINITION. The STATUS register: its word (10_state.md R18, 45_host_access.md R117) and the checks
that compute ECODE (60_exceptions.md R127, R129). -/

namespace Sys2Proof.Machine

/-- The code of an error (R22, R127). -/
def ECode.code : ECode → BitVec 4
  | .none => 0#4
  | .illegalOp => 1#4
  | .noSchedule => 2#4
  | .badRound => 3#4
  | .busy => 4#4

/-- The number of a phase (R23). -/
def Phase.code : Phase → BitVec 2
  | .idle => 0#2
  | .init => 1#2
  | .rnd => 2#2
  | .final => 3#2

/-- The bit of a direction (R21). -/
def Dir.code : Dir → BitVec 1
  | .encrypt => 0#1
  | .decrypt => 1#1

/-- `{ROUND[3:0], 0b00, PHASE[1:0], ECODE[3:0], 0b0, DIR, KV, BUSY}` (R117); bits 3, 10 and 11 read 0
(R25). -/
def State.statusWord (s : State) : BitVec 16 :=
  s.round ++ 0b00#2 ++ s.phase.code ++ s.ecode.code ++ 0b0#1 ++ s.dir.code ++
    BitVec.ofBool s.kv ++ BitVec.ofBool s.busy

/-- The commands that need the key schedule (R129). RD and WR are no commands. -/
def needsSchedule : Instr → Bool
  | .nop => false
  | .expand => false
  | .encrypt => true
  | .decrypt => true
  | .subBytes => false
  | .invSubBytes => false
  | .shiftRows => false
  | .invShiftRows => false
  | .mixColumns => false
  | .invMixColumns => false
  | .addRoundKey _ => true
  | .rd _ => false
  | .wr _ _ => false

/-- The commands whose operand names no round key: ADD_ROUND_KEY with `rnd > 10` (R53, R129). -/
def namesNoRoundKey : Instr → Bool
  | .nop => false
  | .expand => false
  | .encrypt => false
  | .decrypt => false
  | .subBytes => false
  | .invSubBytes => false
  | .shiftRows => false
  | .invShiftRows => false
  | .mixColumns => false
  | .invMixColumns => false
  | .addRoundKey n => 10 < n.toNat
  | .rd _ => false
  | .wr _ _ => false

/-- `Check` (R129) of a decoded command byte: the first check that fails gives the code. -/
def State.check (s : State) (cmd : Except DecodeError Instr) : ECode :=
  if s.busy then .busy
  else
    match cmd with
    | .error _ => .illegalOp
    | .ok i =>
      if needsSchedule i && !s.kv then .noSchedule
      else if namesNoRoundKey i then .badRound
      else .none

end Sys2Proof.Machine
end

