-- ==== Sys2Proof/Machine/Operands.lean ====
section
/-! DEFINITION. Operand forms: the round key an index names (30_encoding.md R53) and what each
register index reads as (45_host_access.md R115 to R121). -/

namespace Sys2Proof.Machine

/-- `RK[n]` (R16). Only 0..10 name a register (R53); 11 to 15 are turned away before they are read
(R129), and stand here for a register that holds no value. -/
def State.roundKeyReg (s : State) (n : BitVec 4) : Reg := s.rk[n.toNat]?.getD Reg.noValue

/-- `RegRead(idx)` (R115): CMD and reserved indices read 0x00 (R116, R121), STATUS its word (R117),
KEY, STATE and RK[i] the register (R118 to R120). -/
def State.regRead (s : State) (idx : BitVec 5) : Reg :=
  if idx = cmdIdx then Reg.of 0#128
  else if idx = statusIdx then Reg.of (s.statusWord.setWidth 128)
  else if idx = keyIdx then s.key
  else if idx = stateIdx then s.state
  else if isRoundKeyIdx idx then s.roundKeyReg ((idx - 0x10#5).setWidth 4)
  else Reg.of 0#128

end Sys2Proof.Machine
end

