-- ==== Sys2Proof/Machine/Ops.lean ====
section
/-! DEFINITION. The named operations over the registers. An error is not a trap (60_exceptions.md
R133): taking one is `State.reject`, which writes ECODE and nothing else (R131). There is no return
from an error (R134), so none stands beside it. -/

namespace Sys2Proof.Machine

/-- Write STATUS.ECODE (R141). -/
def State.setECode (s : State) (e : ECode) : State := { s with ecode := e }

/-- `raise Error(code)`: the error is recorded, and no other bit of any register changes (R131). -/
def State.reject (s : State) (e : ECode) : State := s.setECode e

/-- Note that the register `r` is read: if it holds no value, `model_fault(UNINIT)` is recorded (R11,
R140), and "no later event clears it". The event goes on (log entry 2). -/
def State.noteRead (s : State) (r : Reg) : State := { s with uninit := s.uninit || !r.written }

/-- `STATE <- v` (R15). -/
def State.writeState (s : State) (v : Block) : State := { s with state := Reg.of v }

/-- `KEY <- v; STATUS.KV <- 0` (R124). -/
def State.writeKey (s : State) (v : Block) : State := { s with key := Reg.of v, kv := false }

/-- The eleven round-key registers of a key's schedule (R85). -/
def scheduleRegs (k : Block) : Vector Reg 11 := Vector.ofFn fun i => Reg.of (keyExpansion k)[i]

/-- `RK[0..10] <- KeyExpansion(k); STATUS.KV <- 1`, all at once (R85). -/
def State.writeSchedule (s : State) (k : Block) : State := { s with rk := scheduleRegs k, kv := true }

/-- Move the sequencer's position (R26): PHASE and ROUND. -/
def State.setPosition (s : State) (p : Phase) (r : BitVec 4) : State := { s with phase := p, round := r }

/-- The start of a run (R113, R114): DIR, PHASE <- INIT, ROUND, BUSY <- 1. -/
def State.startRun (s : State) (d : Dir) (r : BitVec 4) : State :=
  { s with dir := d, phase := .init, round := r, busy := true }

/-- "Done" (R105, R108): PHASE <- IDLE, BUSY <- 0; ROUND stays. -/
def State.endRun (s : State) : State := { s with phase := .idle, busy := false }

/-- Give `bs` back to the host (R48). -/
def State.respond (s : State) (bs : List Byte) : State := { s with output := s.output ++ bs }

/-- STATE <- f(STATE) (the template of 41_sbox.md, section 3). -/
def State.mapState (s : State) (f : Block → Block) : State :=
  (s.noteRead s.state).writeState (f s.state.value)

/-- STATE <- f(STATE, RK[n]) (R97, R103 to R108). -/
def State.mapStateWithKey (s : State) (f : Block → Block → Block) (n : BitVec 4) : State :=
  ((s.noteRead s.state).noteRead (s.roundKeyReg n)).writeState
    (f s.state.value (s.roundKeyReg n).value)

/-- The writing of a command byte to CMD (R123): a command that fails `Check` is rejected; otherwise
ECODE <- 0 and the command's effect. -/
def State.issue (s : State) (cmd : Except DecodeError Instr) (effect : State → State) : State :=
  match s.check cmd with
  | .none => effect (s.setECode .none)
  | .illegalOp => s.reject .illegalOp
  | .noSchedule => s.reject .noSchedule
  | .badRound => s.reject .badRound
  | .busy => s.reject .busy

/-- A write of KEY or STATE: rejected with BUSY while a run is going (R124, R125, R132). -/
def State.whenIdle (s : State) (effect : State → State) : State :=
  if s.busy then s.reject .busy else effect s

/-- The reset event (R142): STATUS <- 0 and every data register without a value. What the host has
sent and been given, and a recorded model fault (R140), are not the block's. -/
def State.resetBlock (s : State) : State :=
  { s with
    key := Reg.noValue
    state := Reg.noValue
    rk := Vector.replicate 11 Reg.noValue
    busy := false
    kv := false
    dir := .encrypt
    ecode := .none
    phase := .idle
    round := 0#4 }

end Sys2Proof.Machine
end

