-- ==== Sys2Proof/Machine/Control.lean ====
section
/-! DEFINITION. The commands NOP, EXPAND, ENCRYPT and DECRYPT (42_key_expansion.md, section 3;
44_cipher.md, section 3). -/

namespace Sys2Proof.Machine

/-- NOP: an accepted one only clears ECODE (R112). -/
def execNop (s : State) : Outcome := .next (s.issue (.ok .nop) fun t => t)

/-- EXPAND: the schedule of KEY into RK0 to RK10, and KV <- 1 (R85). -/
def execExpand (s : State) : Outcome :=
  .next (s.issue (.ok .expand) fun t => (t.noteRead t.key).writeSchedule t.key.value)

/-- ENCRYPT: start the sequencer at (INIT, 0) with DIR = 0 (R113). -/
def execEncrypt (s : State) : Outcome :=
  .next (s.issue (.ok .encrypt) fun t => t.startRun .encrypt 0#4)

/-- DECRYPT: start the sequencer at (INIT, 10) with DIR = 1 (R114). -/
def execDecrypt (s : State) : Outcome :=
  .next (s.issue (.ok .decrypt) fun t => t.startRun .decrypt 10#4)

end Sys2Proof.Machine
end

