-- ==== Sys2Proof/Machine/Transforms.lean ====
section
/-! DEFINITION. ShiftRows, MixColumns, AddRoundKey and their inverses as pure functions
(43_round_transforms.md). -/

namespace Sys2Proof.Machine

/-- `ShiftRows`: `t[r,c] = s[r, (c + r) mod 4]` (R86). Byte `i` stands at row `i % 4` of column
`i / 4` (R4). -/
def shiftRows (s : Block) : Block :=
  ofByteFn fun i => cell s (i % 4) ((i / 4 + i % 4) % 4)

/-- `InvShiftRows`: `t[r,c] = s[r, (c - r) mod 4]` (R87); `c + 4 - r` keeps the difference a natural
number. -/
def invShiftRows (s : Block) : Block :=
  ofByteFn fun i => cell s (i % 4) ((i / 4 + 4 - i % 4) % 4)

/-- One output byte of a circulant matrix: the XOR of four `gmul` terms of a row `k0 k1 k2 k3`
against a column (R88, R90). -/
def mixRow (k0 k1 k2 k3 : Byte) (a : Word) : Byte :=
  gmul k0 (wordByte a 0) ^^^ gmul k1 (wordByte a 1) ^^^ gmul k2 (wordByte a 2) ^^^
    gmul k3 (wordByte a 3)

/-- `MixColumn` on one column (R88). -/
def mixColumn (a : Word) : Word :=
  ofWordBytes
    (mixRow 0x02#8 0x03#8 0x01#8 0x01#8 a)
    (mixRow 0x01#8 0x02#8 0x03#8 0x01#8 a)
    (mixRow 0x01#8 0x01#8 0x02#8 0x03#8 a)
    (mixRow 0x03#8 0x01#8 0x01#8 0x02#8 a)

/-- `MixColumns`: each column on its own (R89). -/
def mixColumns (s : Block) : Block := ofColFn fun c => mixColumn (col s c)

/-- `InvMixColumn` on one column (R90). -/
def invMixColumn (a : Word) : Word :=
  ofWordBytes
    (mixRow 0x0E#8 0x0B#8 0x0D#8 0x09#8 a)
    (mixRow 0x09#8 0x0E#8 0x0B#8 0x0D#8 a)
    (mixRow 0x0D#8 0x09#8 0x0E#8 0x0B#8 a)
    (mixRow 0x0B#8 0x0D#8 0x09#8 0x0E#8 a)

/-- `InvMixColumns`: each column on its own (R91). -/
def invMixColumns (s : Block) : Block := ofColFn fun c => invMixColumn (col s c)

/-- `AddRoundKey` (R92). -/
def addRoundKey (s k : Block) : Block := s ^^^ k

end Sys2Proof.Machine
end

