-- ==== Sys2Proof/Machine/RoundCommands.lean ====
section
/-! DEFINITION. The single-transform commands (41_sbox.md, section 3; 43_round_transforms.md,
section 4). Each runs whole in the write that issues it (R148). -/

namespace Sys2Proof.Machine

/-- SUB_BYTES (R77). -/
def execSubBytes (s : State) : Outcome := .next (s.issue (.ok .subBytes) (·.mapState subBytes))

/-- INV_SUB_BYTES (R78). -/
def execInvSubBytes (s : State) : Outcome :=
  .next (s.issue (.ok .invSubBytes) (·.mapState invSubBytes))

/-- SHIFT_ROWS (R93). -/
def execShiftRows (s : State) : Outcome := .next (s.issue (.ok .shiftRows) (·.mapState shiftRows))

/-- INV_SHIFT_ROWS (R94). -/
def execInvShiftRows (s : State) : Outcome :=
  .next (s.issue (.ok .invShiftRows) (·.mapState invShiftRows))

/-- MIX_COLUMNS (R95). -/
def execMixColumns (s : State) : Outcome := .next (s.issue (.ok .mixColumns) (·.mapState mixColumns))

/-- INV_MIX_COLUMNS (R96). -/
def execInvMixColumns (s : State) : Outcome :=
  .next (s.issue (.ok .invMixColumns) (·.mapState invMixColumns))

/-- ADD_ROUND_KEY n (R97). -/
def execAddRoundKey (n : BitVec 4) (s : State) : Outcome :=
  .next (s.issue (.ok (.addRoundKey n)) (·.mapStateWithKey addRoundKey n))

end Sys2Proof.Machine
end

