-- ==== Sys2Proof/Machine/HostAccess.lean ====
section
/-! DEFINITION. The host's register transactions (45_host_access.md). -/

namespace Sys2Proof.Machine

/-- RD idx: the register's payload goes back to the host, and no register changes (R115, R41). -/
def execRd (idx : BitVec 5) (s : State) : Outcome :=
  .next ((s.noteRead (s.regRead idx)).respond (bytesOf (payloadBytes idx) (s.regRead idx).value))

/-- `Execute` (R123): the meaning of the command a byte decodes to. `decodeCommand` gives none of the
two transactions, which are no commands and count as RESERVED here. -/
def executeCommand (i : Instr) (s : State) : Outcome :=
  match i with
  | .nop => execNop s
  | .expand => execExpand s
  | .encrypt => execEncrypt s
  | .decrypt => execDecrypt s
  | .subBytes => execSubBytes s
  | .invSubBytes => execInvSubBytes s
  | .shiftRows => execShiftRows s
  | .invShiftRows => execInvShiftRows s
  | .mixColumns => execMixColumns s
  | .invMixColumns => execInvMixColumns s
  | .addRoundKey n => execAddRoundKey n s
  | .rd _ => .next (s.issue (.error .reservedCommand) fun t => t)
  | .wr _ _ => .next (s.issue (.error .reservedCommand) fun t => t)

/-- `WriteCmd(c)` (R123): a RESERVED byte is rejected (R56); any other issues its command. -/
def writeCmd (c : Byte) (s : State) : Outcome :=
  match decodeCommand c with
  | .ok i => executeCommand i s
  | .error e => .next (s.issue (.error e) fun t => t)

/-- WR idx, v (R122): CMD issues a command (R123), KEY and STATE are written while idle (R124, R125),
and every other index ignores the write (R126). -/
def execWr (idx : BitVec 5) (v : Block) (s : State) : Outcome :=
  if idx = cmdIdx then writeCmd (v.setWidth 8) s
  else if idx = keyIdx then .next (s.whenIdle (·.writeKey v))
  else if idx = stateIdx then .next (s.whenIdle (·.writeState v))
  else .next s

end Sys2Proof.Machine
end

