-- ==== Sys2Proof/Machine/Cipher.lean ====
section
/-! DEFINITION. The block cipher and its inverse as pure functions (44_cipher.md, section 1), in the
order of operations 90_conflicts.md C1 settles. -/

namespace Sys2Proof.Machine

/-- A middle round of the cipher (R98, R104). -/
def encRound (s k : Block) : Block := addRoundKey (mixColumns (shiftRows (subBytes s))) k

/-- The last round of the cipher: no MixColumns (R98, R105). -/
def encFinal (s k : Block) : Block := addRoundKey (shiftRows (subBytes s)) k

/-- A middle round of the inverse cipher (R99, R107). -/
def decRound (s k : Block) : Block := invMixColumns (addRoundKey (invSubBytes (invShiftRows s)) k)

/-- The last round of the inverse cipher (R99, R108). -/
def decFinal (s k : Block) : Block := addRoundKey (invSubBytes (invShiftRows s)) k

/-- The indices of the middle rounds, 1 to 9. -/
def middleRounds : List (Fin 11) := [1, 2, 3, 4, 5, 6, 7, 8, 9]

/-- `Cipher(P, RK)` (R98). -/
def cipher (p : Block) (rk : Vector Block 11) : Block :=
  encFinal (middleRounds.foldl (fun s r => encRound s rk[r]) (addRoundKey p rk[0])) rk[10]

/-- `InvCipher(C, RK)`: the same schedule from round key 10 down to round key 0 (R99). -/
def invCipher (c : Block) (rk : Vector Block 11) : Block :=
  decFinal (middleRounds.reverse.foldl (fun s r => decRound s rk[r]) (addRoundKey c rk[10])) rk[0]

end Sys2Proof.Machine
end

