-- ==== Sys2Proof/Machine/Sequencer.lean ====
section
/-! DEFINITION. The sequencer (44_cipher.md, section 2): ENCRYPT and DECRYPT run one step at a time,
and the host can act between any two steps (R111). -/

namespace Sys2Proof.Machine

/-- Encrypt, Initial (R103). -/
def encInitialStep (s : State) : State := (s.mapStateWithKey addRoundKey s.round).setPosition .rnd 1#4

/-- Encrypt, Round r (R104). -/
def encRoundStep (s : State) : State :=
  let t := s.mapStateWithKey encRound s.round
  if s.round = 9#4 then t.setPosition .final 10#4 else t.setPosition .rnd (s.round + 1#4)

/-- Encrypt, FinalRound (R105). -/
def encFinalStep (s : State) : State := (s.mapStateWithKey encFinal s.round).endRun

/-- Decrypt, Initial (R106). -/
def decInitialStep (s : State) : State := (s.mapStateWithKey addRoundKey s.round).setPosition .rnd 9#4

/-- Decrypt, Round r (R107). -/
def decRoundStep (s : State) : State :=
  let t := s.mapStateWithKey decRound s.round
  if s.round = 1#4 then t.setPosition .final 0#4 else t.setPosition .rnd (s.round - 1#4)

/-- Decrypt, FinalRound (R108). -/
def decFinalStep (s : State) : State := (s.mapStateWithKey decFinal s.round).endRun

/-- ROUND in 1..9. -/
def isMiddleRound (r : BitVec 4) : Bool := 1 ≤ r.toNat && r.toNat ≤ 9

/-- The step R101's table names for a position with BUSY = 1; a position in no row of it is
`model_fault(UNREACHABLE)` (R110). -/
def busyStep (s : State) : Outcome :=
  match s.phase, s.dir with
  | .init, .encrypt => if s.round = 0#4 then .next (encInitialStep s) else .fault .unreachable
  | .rnd, .encrypt => if isMiddleRound s.round then .next (encRoundStep s) else .fault .unreachable
  | .final, .encrypt => if s.round = 10#4 then .next (encFinalStep s) else .fault .unreachable
  | .init, .decrypt => if s.round = 10#4 then .next (decInitialStep s) else .fault .unreachable
  | .rnd, .decrypt => if isMiddleRound s.round then .next (decRoundStep s) else .fault .unreachable
  | .final, .decrypt => if s.round = 0#4 then .next (decFinalStep s) else .fault .unreachable
  | .idle, .encrypt => .fault .unreachable
  | .idle, .decrypt => .fault .unreachable

/-- The sequencer's turn: no step while BUSY = 0, so nothing changes; one step while BUSY = 1 (R101). -/
def sequencerStep (s : State) : Outcome := if s.busy then busyStep s else .next s

end Sys2Proof.Machine
end

