-- ==== Sys2Proof/Machine/Events.lean ====
section
/-! DEFINITION. The total order of events (20_memory.md R43): whose event comes next, and what it
does. -/

namespace Sys2Proof.Machine

/-- Whose turn it is, and the state with that turn taken off `order`. When `order` is used up, a run that
is going goes on to its end, and then the host makes its remaining moves (R102, R153). DESIGN CHOICE,
unsafe for a claim that looks at that tail only: every interleaving is some `order` (log entry 3). -/
def takeTurn (s : State) : Turn × State :=
  match s.order with
  | e :: es => (e, { s with order := es })
  | [] => (if s.busy then .sequencer else .host, s)

/-- The block takes the bytes of one whole transaction (R40, R49). Bytes that are no transaction, or
more than one, are refused (R39; log entry 6). -/
def takeBytes (bs : List Byte) (s : State) : Outcome :=
  match decode .transaction bs with
  | .ok (i, []) => exec i s
  | .ok (_, _ :: _) => .refused .notATransaction
  | .error _ => .refused .notATransaction

/-- One `RD STATUS` of a POLL (R59): the move is done where bit 0 (BUSY) of the result is 0, and is
still to do where it is 1. `rest` is what the host does after the POLL. -/
def pollTurn (rest : List HostMove) (s : State) : Outcome :=
  exec (.rd statusIdx) (if s.statusWord.getLsbD 0 then s else { s with program := rest })

/-- The host's turn: its next move (R152). Nothing happens where it has none. -/
def hostTurn (s : State) : Outcome :=
  match s.program with
  | [] => .next s
  | .send bs :: rest => takeBytes bs { s with program := rest }
  | .poll :: rest => pollTurn rest s
  | .reset :: rest => .next { s with program := rest }.resetBlock

/-- One event (R43). -/
def runTurn (e : Turn) (s : State) : Outcome :=
  match e with
  | .host => hostTurn s
  | .sequencer => sequencerStep s

/-- Put a transaction before everything the host has to do, and the host's turn before every other. -/
def State.sendFirst (s : State) (bs : List Byte) : State :=
  { s with program := .send bs :: s.program, order := .host :: s.order }

end Sys2Proof.Machine
end

