-- ==== Sys2Proof/Machine/Step.lean ====
section
/-! DEFINITION. One step of the machine: the next event of the total order (20_memory.md R43). -/

namespace Sys2Proof.Machine

/-- One event: a move of the host (a transaction, a read of a POLL, a reset) or a sequencer step. A block
with no event left holds its state (R151). -/
def step (s : State) : Host.Outcome State Fault Refusal :=
  runTurn (takeTurn s).1 (takeTurn s).2

/-- `s` with the instruction of an opcode-table word as the very next thing the block takes: the bytes
that carry it as the host's next move, and the host's turn next (log entry 8). -/
def State.withFetchWord (s : State) (nbits w : Nat) : State := s.sendFirst (tableLayout nbits w)

end Sys2Proof.Machine
end

