-- ==== Sys2Proof/Machine/Assembler.lean ====
section
/-! DEFINITION. The host's program lines and pseudo-instructions (30_encoding.md R58, R59), and the
transcriber that turns them into the host's moves or refuses them (20_memory.md R39, U11). The text of
a line is read in AssemblerText.lean. -/

namespace Sys2Proof.Machine

/-- The digits of a hexadecimal literal, as they are written, first digit first (R58). -/
abbrev Literal := List (BitVec 4)

/-- A value with one more digit after it. -/
def pushDigit (v : Block) (d : BitVec 4) : Block := (v <<< 4) ||| d.setWidth 128

/-- The value of a literal: its first digit is the most significant. -/
def literalValue (ds : Literal) : Block := ds.foldl pushDigit 0#128

/-- The two digits of a byte. -/
def byteLiteral (b : Byte) : Literal := [b.extractLsb' 4 4, b.extractLsb' 0 4]

/-- `<reg>` of R58. -/
inductive RegName where
  | cmd
  | status
  | key
  | state
  | rk (i : Fin 11)
  | idx (n : BitVec 5)
deriving DecidableEq, Repr

/-- The index of `RK<i>` (R35). -/
def rkIdx (i : Nat) : BitVec 5 := 0x10#5 + BitVec.ofNat 5 i

/-- The index a register name stands for (R35, R58). -/
def RegName.index : RegName → BitVec 5
  | .cmd => cmdIdx
  | .status => statusIdx
  | .key => keyIdx
  | .state => stateIdx
  | .rk i => rkIdx i.val
  | .idx n => n

/-- Why a program is not transcribed. -/
inductive TranscribeError where
  /-- A literal whose digits are not exactly the register's width (R39, R58, R135, U11). -/
  | wrongWidth
  /-- `CMD` with something that is no command (R59). -/
  | notACommand
  /-- Text that is none of the lines of R58 and R59. -/
  | notALine
deriving DecidableEq, Repr

/-- A line of a host program (R58). -/
inductive Line where
  | rd (r : RegName)
  | wr (r : RegName) (value : Literal)
  | reset
deriving DecidableEq, Repr

/-- The host's move for a line: a transaction's bytes, or the reset input, which has none (R51, R58). A
literal of another width than the register's is refused, so that no transaction is made of it. -/
def Line.move : Line → Except TranscribeError HostMove
  | .rd r => .ok (.send (encode (.rd r.index)))
  | .wr r value =>
    if value.length = 2 * payloadBytes r.index then
      .ok (.send (encode (.wr r.index (literalValue value))))
    else .error .wrongWidth
  | .reset => .ok .reset

/-- The moves of lines one after another; one refused line refuses them all, before any move is
made (R135). -/
def movesOf : List Line → Except TranscribeError (List HostMove)
  | [] => .ok []
  | l :: ls =>
    match l.move, movesOf ls with
    | .ok m, .ok ms => .ok (m :: ms)
    | .error e, _ => .error e
    | .ok _, .error e => .error e

/-- `CMD <mnemonic>`: a write of the command's byte to CMD (R59). A transaction is no command. -/
def commandLine (i : Instr) : Except TranscribeError Line :=
  match formatOf i with
  | .command => .ok (.wr .cmd ((encode i).flatMap byteLiteral))
  | .transaction => .error .notACommand

/-- The two commands that `RUN` can name (R59). -/
def runCommand : Dir → Instr
  | .encrypt => .encrypt
  | .decrypt => .decrypt

/-- A line or a pseudo-instruction (R58, R59). -/
inductive ProgramLine where
  | line (l : Line)
  /-- `CMD <mnemonic>`, also `CMD ADD_ROUND_KEY, <n>`. -/
  | cmd (i : Instr)
  /-- `POLL`. -/
  | poll
  /-- `LOADKEY <value>`. -/
  | loadKey (value : Literal)
  /-- `RUN ENCRYPT` or `RUN DECRYPT`. -/
  | run (d : Dir)
deriving DecidableEq, Repr

/-- The moves of lines and a command after them. -/
def movesThenCommand (ls : List Line) (i : Instr) : Except TranscribeError (List HostMove) :=
  match commandLine i with
  | .ok l => movesOf (ls ++ [l])
  | .error e => .error e

/-- One expansion after another. -/
def andThen (a b : Except TranscribeError (List HostMove)) : Except TranscribeError (List HostMove) :=
  match a, b with
  | .ok x, .ok y => .ok (x ++ y)
  | .error e, _ => .error e
  | .ok _, .error e => .error e

/-- The expansions of R59. -/
def ProgramLine.moves : ProgramLine → Except TranscribeError (List HostMove)
  | .line l => movesOf [l]
  | .cmd i => movesThenCommand [] i
  | .poll => .ok [.poll]
  | .loadKey value => movesThenCommand [.wr .key value] .expand
  | .run d => andThen (movesThenCommand [] (runCommand d)) (.ok [.poll])

/-- The moves of a whole host program. -/
def transcribe : List ProgramLine → Except TranscribeError (List HostMove)
  | [] => .ok []
  | l :: ls => andThen l.moves (transcribe ls)

/-- A host program put behind what the host has still to do. How the sequencer's steps fall between its
moves is `order` (R43). -/
def State.withProgram (s : State) (ls : List ProgramLine) : Except TranscribeError State :=
  match transcribe ls with
  | .ok ms => .ok { s with program := s.program ++ ms }
  | .error e => .error e

end Sys2Proof.Machine
end

