-- ==== Sys2Proof/Machine/AssemblerText.lean ====
section
/-! DEFINITION. The text of a host program (30_encoding.md R58, R59), read into its lines. What the spec
does not say of the text (white space, the case of digits, how `<n>` is written, empty lines) is log
entry 11. -/

namespace Sys2Proof.Machine

/-- The lines of a text. -/
def textLines : List Char → List (List Char)
  | [] => [[]]
  | c :: cs =>
    if c = '\n' then [] :: textLines cs
    else
      match textLines cs with
      | [] => [[c]]
      | l :: ls => (c :: l) :: ls

/-- A line without its comment: "`;` starts a comment". -/
def withoutComment (cs : List Char) : List Char := cs.takeWhile (· ≠ ';')

/-- White space inside a line. -/
def isBlank (c : Char) : Bool := c = ' ' || c = '\t' || c = '\r'

/-- The pieces of a line between blanks, a comma being a piece of its own; some are empty. -/
def pieces : List Char → List (List Char)
  | [] => [[]]
  | c :: cs =>
    if isBlank c then [] :: pieces cs
    else if c = ',' then [] :: [','] :: pieces cs
    else
      match pieces cs with
      | [] => [[c]]
      | p :: ps => (c :: p) :: ps

/-- The words of a line. -/
def words (cs : List Char) : List (List Char) := (pieces (withoutComment cs)).filter (· ≠ [])

/-- A hexadecimal digit. -/
def hexDigit (c : Char) : Option (BitVec 4) :=
  if 48 ≤ c.toNat ∧ c.toNat ≤ 57 then some (BitVec.ofNat 4 (c.toNat - 48))
  else if 97 ≤ c.toNat ∧ c.toNat ≤ 102 then some (BitVec.ofNat 4 (c.toNat - 87))
  else if 65 ≤ c.toNat ∧ c.toNat ≤ 70 then some (BitVec.ofNat 4 (c.toNat - 55))
  else none

/-- The hexadecimal digits of a word, where it has no other characters. -/
def hexDigits : List Char → Option Literal
  | [] => some []
  | c :: cs =>
    match hexDigit c, hexDigits cs with
    | some d, some ds => some (d :: ds)
    | some _, none => none
    | none, _ => none

/-- A literal `0x…` (R58). -/
def readLiteral (w : List Char) : Option Literal :=
  match w with
  | '0' :: 'x' :: ds => hexDigits ds
  | _ => none

/-- A number in decimal, without leading zeros. -/
def readNumber (w : List Char) : Option Nat :=
  if w.isEmpty || (w.head? = some '0' && 1 < w.length) then none
  else if w.all Char.isDigit then some (w.foldl (fun n c => 10 * n + (c.toNat - 48)) 0)
  else none

/-- `RK0` to `RK10`. -/
def readRoundKeyName (w : List Char) : Option RegName :=
  match w with
  | 'R' :: 'K' :: n =>
    match readNumber n with
    | some i => if h : i < 11 then some (.rk ⟨i, h⟩) else none
    | none => none
  | _ => none

/-- `<reg>`: its words are one name, or `IDX` and a number 0 to 31 (R58). -/
def readReg (ws : List (List Char)) : Option RegName :=
  match ws with
  | [w] =>
    if w = "CMD".toList then some .cmd
    else if w = "STATUS".toList then some .status
    else if w = "KEY".toList then some .key
    else if w = "STATE".toList then some .state
    else readRoundKeyName w
  | [w, n] =>
    if w = "IDX".toList then
      match readNumber n with
      | some i => if i < 32 then some (.idx (BitVec.ofNat 5 i)) else none
      | none => none
    else none
  | _ => none

/-- A mnemonic of R54 other than ADD_ROUND_KEY. -/
def readMnemonic (w : List Char) : Option Instr :=
  if w = "NOP".toList then some .nop
  else if w = "EXPAND".toList then some .expand
  else if w = "ENCRYPT".toList then some .encrypt
  else if w = "DECRYPT".toList then some .decrypt
  else if w = "SUB_BYTES".toList then some .subBytes
  else if w = "INV_SUB_BYTES".toList then some .invSubBytes
  else if w = "SHIFT_ROWS".toList then some .shiftRows
  else if w = "INV_SHIFT_ROWS".toList then some .invShiftRows
  else if w = "MIX_COLUMNS".toList then some .mixColumns
  else if w = "INV_MIX_COLUMNS".toList then some .invMixColumns
  else none

/-- The words before the comma, and the one word after it. -/
def splitComma : List (List Char) → Option (List (List Char) × List Char)
  | [] => none
  | w :: ws =>
    if w = [','] then
      match ws with
      | [v] => some ([], v)
      | _ => none
    else
      match splitComma ws with
      | some (pre, v) => some (w :: pre, v)
      | none => none

/-- `RD <reg>`. -/
def readRd (ws : List (List Char)) : Option ProgramLine := (readReg ws).map fun r => .line (.rd r)

/-- `WR <reg>, <value>`. -/
def readWr (ws : List (List Char)) : Option ProgramLine :=
  match splitComma ws with
  | some (pre, v) =>
    match readReg pre, readLiteral v with
    | some r, some value => some (.line (.wr r value))
    | _, _ => none
  | none => none

/-- `CMD <mnemonic>` and `CMD ADD_ROUND_KEY, <n>` for `n` in 0..15. -/
def readCmd (ws : List (List Char)) : Option ProgramLine :=
  match ws with
  | [m] => (readMnemonic m).map .cmd
  | [m, comma, n] =>
    if m = "ADD_ROUND_KEY".toList ∧ comma = [','] then
      match readNumber n with
      | some i => if i < 16 then some (.cmd (.addRoundKey (BitVec.ofNat 4 i))) else none
      | none => none
    else none
  | _ => none

/-- `RUN <mnemonic>` for ENCRYPT or DECRYPT. -/
def readRun (ws : List (List Char)) : Option ProgramLine :=
  match ws with
  | [m] =>
    if m = "ENCRYPT".toList then some (.run .encrypt)
    else if m = "DECRYPT".toList then some (.run .decrypt)
    else none
  | _ => none

/-- The line that words spell, by their first word. -/
def readWords (w : List Char) (ws : List (List Char)) : Option ProgramLine :=
  if w = "RD".toList then readRd ws
  else if w = "WR".toList then readWr ws
  else if w = "RESET".toList then if ws = [] then some (.line .reset) else none
  else if w = "CMD".toList then readCmd ws
  else if w = "POLL".toList then if ws = [] then some .poll else none
  else if w = "LOADKEY".toList then
    match ws with
    | [v] => (readLiteral v).map .loadKey
    | _ => none
  else if w = "RUN".toList then readRun ws
  else none

/-- The lines of a program's text; a line with nothing but a comment is none. -/
def readLines : List (List Char) → Except TranscribeError (List ProgramLine)
  | [] => .ok []
  | t :: ts =>
    match words t with
    | [] => readLines ts
    | w :: ws =>
      match readWords w ws, readLines ts with
      | some l, .ok ls => .ok (l :: ls)
      | none, _ => .error .notALine
      | some _, .error e => .error e

/-- The host's moves for a program's text. -/
def assemble (text : List Char) : Except TranscribeError (List HostMove) :=
  match readLines (textLines text) with
  | .ok ls => transcribe ls
  | .error e => .error e

end Sys2Proof.Machine
end

