-- ==== Sys2Proof/Safety.lean ====
section
/-! DEFINITION. What claims are stated in: the invariants of every reachable state (10_state.md,
section 6), the end of a run (R153), and the parts of a state that a frame names. -/

namespace Sys2Proof.Machine

/-- The sequencer positions with BUSY = 1 (R28, R101). -/
def runPosition (p : Phase) (d : Dir) (r : BitVec 4) : Bool :=
  match p, d with
  | .init, .encrypt => r = 0#4
  | .rnd, .encrypt => isMiddleRound r
  | .final, .encrypt => r = 10#4
  | .init, .decrypt => r = 10#4
  | .rnd, .decrypt => isMiddleRound r
  | .final, .decrypt => r = 0#4
  | .idle, .encrypt => false
  | .idle, .decrypt => false

/-- R27: BUSY = 1 exactly when PHASE is not IDLE. -/
abbrev State.BusyIffRunning (s : State) : Prop := s.busy = true ↔ s.phase ≠ .idle

/-- R28: the legal combinations of PHASE, DIR and ROUND. -/
abbrev State.LegalPosition (s : State) : Prop :=
  (s.phase = .idle ∧ s.round.toNat ≤ 10) ∨ runPosition s.phase s.dir s.round = true

/-- R29: while KV = 1, RK0 to RK10 hold the schedule of KEY, and KEY holds a value unless the run has
recorded a model fault (then it has no end state, R153). -/
abbrev State.ScheduleValid (s : State) : Prop :=
  s.kv = true → s.rk = scheduleRegs s.key.value ∧ (s.key.written = true ∨ s.uninit = true)

/-- While a run is going the schedule is valid: ENCRYPT and DECRYPT need KV = 1 (R129) and nothing
clears it before the run ends, except reset (R30). -/
abbrev State.RunHasSchedule (s : State) : Prop := s.busy = true → s.kv = true

/-- The invariants of every reachable state. -/
abbrev State.Inv (s : State) : Prop :=
  s.BusyIffRunning ∧ s.LegalPosition ∧ s.ScheduleValid ∧ s.RunHasSchedule

/-- A finished run (R153): the host has made its last move, BUSY = 0, and no model fault is recorded. -/
abbrev State.Ended (s : State) : Prop :=
  s.program = [] ∧ s.busy = false ∧ s.uninit = false

/-- The next event is the reset input (R142). -/
abbrev State.ResetNext (s : State) : Prop :=
  (takeTurn s).1 = .host ∧ s.program.head? = some .reset

/-- The data registers a command reads (R77, R78, R85, R93 to R97); ENCRYPT and DECRYPT read none when
they are accepted (R113, R114). -/
def commandReads (i : Instr) (s : State) : List Reg :=
  match i with
  | .nop => []
  | .expand => [s.key]
  | .encrypt => []
  | .decrypt => []
  | .subBytes => [s.state]
  | .invSubBytes => [s.state]
  | .shiftRows => [s.state]
  | .invShiftRows => [s.state]
  | .mixColumns => [s.state]
  | .invMixColumns => [s.state]
  | .addRoundKey n => [s.state, s.roundKeyReg n]
  | .rd _ => []
  | .wr _ _ => []

/-- `n` steps, one after another; a run stops at the first fault or refusal. It is the host's
`Host.Core.run` on this machine (Laws/Run.lean). -/
def runSteps : Nat → State → Outcome
  | 0, s => .next s
  | n + 1, s =>
    match step s with
    | .next t => runSteps n t
    | .fault f => .fault f
    | .refused r => .refused r

/-- The host's side of the machine is the same: what it has to do, whose turns come, what it was
given. -/
abbrev State.SameHost (s t : State) : Prop :=
  t.program = s.program ∧ t.order = s.order ∧ t.output = s.output

/-- KEY and the schedule are the same, and KV with them. -/
abbrev State.SameKey (s t : State) : Prop := t.key = s.key ∧ t.rk = s.rk ∧ t.kv = s.kv

/-- The sequencer's position (R26) and BUSY are the same. -/
abbrev State.SameRun (s t : State) : Prop :=
  t.busy = s.busy ∧ t.phase = s.phase ∧ t.round = s.round ∧ t.dir = s.dir

/-- Every register of the block is the same: KEY, STATE, RK0 to RK10 and all of STATUS (R13). -/
abbrev State.SameBlock (s t : State) : Prop :=
  s.SameKey t ∧ s.SameRun t ∧ t.state = s.state ∧ t.ecode = s.ecode

end Sys2Proof.Machine
end

