-- ==== Sys2Proof/Certificates/Slice0/Obligations.lean ====
section
/-! DEFINITION. The statements for the provers. Where a statement speaks of `uninit`, it speaks of the
model's record of `model_fault(UNINIT)` (R11, R140), whose form is a DESIGN CHOICE (log entry 2); no
statement rests on the bits behind a register that holds no value (log entry 1). -/

open Sys2Proof Sys2Proof.Machine

/-! Reset. -/

/-- R33: what reset leaves: STATUS reads 0x0000, and KEY, STATE and RK0 to RK10 hold no value, so that
reading one is recorded as UNINIT (the record is the model's, log entry 2). -/
def Obligations.ResetIsIdleAndHoldsNoValues : Prop :=
  State.reset.busy = false ∧ State.reset.kv = false ∧ State.reset.dir = .encrypt ∧
    State.reset.ecode = .none ∧ State.reset.phase = .idle ∧ State.reset.round = 0#4 ∧
    State.reset.statusWord = 0x0000#16 ∧
    State.reset.key.written = false ∧ State.reset.state.written = false ∧
    (∀ i : Fin 11, State.reset.rk[i].written = false) ∧
    (∀ (idx : BitVec 5), idx = keyIdx ∨ idx = stateIdx ∨ isRoundKeyIdx idx = true →
      ∃ t, exec (.rd idx) State.reset = .next t ∧ t.uninit = true)

/-- R142: the reset input, at any point of any run, also while BUSY = 1: STATUS all zero, no data
register with a value, and no other effect on what the host has to do or was given. -/
def Obligations.ResetEventClearsTheBlock : Prop :=
  ∀ (s : State) (es : List Turn) (ms : List HostMove),
    s.order = .host :: es → s.program = .reset :: ms →
    ∃ t, step s = .next t ∧
      t.busy = false ∧ t.kv = false ∧ t.dir = .encrypt ∧ t.ecode = .none ∧ t.phase = .idle ∧
      t.round = 0#4 ∧ t.statusWord = 0x0000#16 ∧ t.key.written = false ∧ t.state.written = false ∧
      (∀ i : Fin 11, t.rk[i].written = false) ∧
      t.order = es ∧ t.program = ms ∧ t.output = s.output ∧ t.uninit = s.uninit

/-! Encoding. -/

/-- Words written out from R48, R50, R54 and R59: one for each family, a reserved header each way, and the
bytes the pseudo-instructions of R59 expand to. -/
def Obligations.WordsFromTheEncodingTablesDecode : Prop :=
  decodeCommand 0x00#8 = .ok .nop ∧ decodeCommand 0x01#8 = .ok .expand ∧
    decodeCommand 0x03#8 = .ok .decrypt ∧ decodeCommand 0x05#8 = .ok .invSubBytes ∧
    decodeCommand 0x06#8 = .ok .shiftRows ∧ decodeCommand 0x09#8 = .ok .invMixColumns ∧
    decodeCommand 0x3A#8 = .ok (.addRoundKey 3#4) ∧
    decodeCommand 0x12#8 = .error .reservedCommand ∧
    decode .transaction [0x1A#8] = .ok (.rd 0x1A#5, []) ∧
    decode .transaction [0x80#8, 0x3A#8, 0x01#8] = .ok (.wr 0x00#5 0x3A#128, [0x01#8]) ∧
    decode .transaction [0x82#8, 0x2b#8, 0x7e#8, 0x15#8, 0x16#8, 0x28#8, 0xae#8, 0xd2#8, 0xa6#8,
      0xab#8, 0xf7#8, 0x15#8, 0x88#8, 0x09#8, 0xcf#8, 0x4f#8, 0x3c#8] =
      .ok (.wr 0x02#5 0x2b7e151628aed2a6abf7158809cf4f3c#128, []) ∧
    (∃ idx, isReservedIdx idx = true ∧ decode .transaction [0x20#8] = .ok (.rd idx, []) ∧
      decode .transaction [0xE2#8, 0x55#8, 0x01#8] = .ok (.wr idx 0x55#128, [0x01#8])) ∧
    transcribe [.cmd (.addRoundKey 3#4)] = .ok [.send [0x80#8, 0x3A#8]] ∧
    transcribe [.run .decrypt] = .ok [.send [0x80#8, 0x03#8], .poll] ∧
    transcribe [.loadKey (List.replicate 32 0xF#4)] =
      .ok [.send (0x82#8 :: List.replicate 16 0xFF#8), .send [0x80#8, 0x01#8]] ∧
    transcribe [.cmd (.rd 0#5)] = .error .notACommand

/-- R48, R49, R52, R54: every well-formed instruction is read back from its own encoding, with every
operand, whatever bytes follow. -/
def Obligations.DecodeOfEncodeIsTheInstruction : Prop :=
  ∀ (i : Instr) (rest : List Byte), i.wf = true →
    decode (formatOf i) (encode i ++ rest) = .ok (i, rest)

/-- R54, R55: a byte decodes to a command exactly where it is that command's own byte, so each command
byte has one meaning and no reserved byte falls to a neighbour. -/
def Obligations.CommandByteIsItsCommandsEncoding : Prop :=
  ∀ (c : Byte) (i : Instr),
    decodeCommand c = .ok i ↔ (formatOf i = .command ∧ encode i = [c])

/-- R55, R56: exactly 26 of the 256 bytes decode to a command, and the other 230 are RESERVED. -/
def Obligations.TwentySixBytesAreCommands : Prop :=
  ((List.range 256).filter fun n => (decodeCommand (BitVec.ofNat 8 n)).isOk).length = 26 ∧
    ((List.range 256).filter fun n => !(decodeCommand (BitVec.ofNat 8 n)).isOk).length = 230 ∧
    ∀ c : Byte, (decodeCommand c = .error .reservedCommand ↔
      (0xB ≤ (opField c).toNat ∨ (opField c ≠ 0xA#4 ∧ rndField c ≠ 0#4)))

/-- R48, R49: a decoded transaction is well-formed, and it took its header and exactly the payload its
index gives a write, and nothing more. -/
def Obligations.DecodedTransactionTakesItsOwnBytes : Prop :=
  ∀ (bs rest : List Byte) (i : Instr), decode .transaction bs = .ok (i, rest) →
    i.wf = true ∧
    ((∃ h idx, bs = h :: rest ∧ i = .rd idx) ∨
      (∃ h payload idx v, bs = h :: (payload ++ rest) ∧ payload.length = payloadBytes idx ∧
        i = .wr idx v ∧ bytesOf (payloadBytes idx) v = payload))

/-- R50: a header with bits 6:5 not 00 is an access to a reserved index with a one-byte payload: the
read gives 0x00 back, the write changes nothing. Which reserved index the decoder names is the model's
choice (log entry 4), and so is the place of what is given back, `output` (log entry 5). -/
def Obligations.ReservedHeaderTouchesNoRegister : Prop :=
  ∀ (h b : Byte) (rest : List Byte) (s : State), h.extractLsb' 5 2 ≠ 0#2 →
    (h.getLsbD 7 = false →
      ∃ i, decode .transaction (h :: rest) = .ok (i, rest) ∧
        exec i s = .next { s with output := s.output ++ [0x00#8] }) ∧
    (h.getLsbD 7 = true →
      ∃ i, decode .transaction (h :: b :: rest) = .ok (i, rest) ∧ exec i s = .next s)

/-- R39, R58, U11, U12: a write with less or more than its register's payload is no transaction. Bytes
that are not exactly one transaction are refused by name (log entry 6). The transcriber refuses a
literal of another width, and with it the whole program; a literal of the right width is sent two
digits a byte, first digit first. -/
def Obligations.WrongWidthWritesAreRefused : Prop :=
  (∀ (s : State) (es : List Turn) (ms : List HostMove) (h : Byte) (rest : List Byte),
    s.order = .host :: es → s.program = .send (h :: rest) :: ms →
    (h.getLsbD 7 = true → rest.length ≠ payloadBytes (headerIdx h) →
      step s = .refused .notATransaction) ∧
    (h.getLsbD 7 = false → rest ≠ [] → step s = .refused .notATransaction)) ∧
  (∀ (r : RegName) (ds : Literal), ds.length ≠ 2 * payloadBytes r.index →
    (Line.wr r ds).move = .error .wrongWidth) ∧
  (∀ (ls : List ProgramLine) (l : ProgramLine) (e : TranscribeError), l ∈ ls → l.moves = .error e →
    ∃ e', transcribe ls = .error e') ∧
  (∀ (r : RegName) (ds : Literal), ds.length = 2 * payloadBytes r.index →
    ∃ bs, (Line.wr r ds).move = .ok (.send ((0b100#3 ++ r.index) :: bs)) ∧
      bs.length = payloadBytes r.index ∧
      ∀ j, j < payloadBytes r.index → bs.getD j 0#8 = ds.getD (2 * j) 0#4 ++ ds.getD (2 * j + 1) 0#4)

/-! The step. -/

/-- R40, R43, R59, R142, R152: the next turn of the order is what a step runs. On the host's turn that is
its next move: the instruction its bytes decode to; a read of STATUS for a POLL, which is done where
BUSY = 0 and still to do where BUSY = 1; the reset. On the sequencer's turn it is the sequencer's step.
An order that is used up lets a run that is going end, and then the host goes on (log entry 3). -/
def Obligations.StepRunsTheDecodedInstruction : Prop :=
  (∀ (s : State) (es : List Turn) (bs : List Byte) (ms : List HostMove) (i : Instr),
    s.program = .send bs :: ms → decode .transaction bs = .ok (i, []) →
      (s.order = .host :: es → step s = exec i { s with order := es, program := ms }) ∧
      (s.order = [] → s.busy = false → step s = exec i { s with program := ms })) ∧
  (∀ (s : State) (es : List Turn) (ms : List HostMove), s.program = .poll :: ms →
    (s.order = .host :: es → s.busy = true →
      step s = exec (.rd statusIdx) { s with order := es }) ∧
    (s.order = .host :: es → s.busy = false →
      step s = exec (.rd statusIdx) { s with order := es, program := ms }) ∧
    (s.order = [] → s.busy = false → step s = exec (.rd statusIdx) { s with program := ms })) ∧
  (∀ (s : State) (es : List Turn) (ms : List HostMove), s.program = .reset :: ms →
    (s.order = .host :: es → step s = .next { s with order := es, program := ms }.resetBlock) ∧
    (s.order = [] → s.busy = false → step s = .next { s with program := ms }.resetBlock)) ∧
  (∀ (s : State) (es : List Turn),
    (s.order = .sequencer :: es → step s = sequencerStep { s with order := es }) ∧
    (s.order = [] → s.busy = true → step s = sequencerStep s)) ∧
  (∀ (s : State) (es : List Turn), s.program = [] →
    (s.order = .host :: es → step s = .next { s with order := es }) ∧
    (s.order = [] → s.busy = false → step s = .next s))

/-- R123: a write of a command byte to CMD runs the command the byte decodes to. -/
def Obligations.WriteOfCmdRunsItsCommand : Prop :=
  ∀ (c : Byte) (i : Instr) (s : State), decodeCommand c = .ok i →
    exec (.wr cmdIdx (c.setWidth 128)) s = exec i s

/-- R56, R129: a RESERVED byte written to CMD changes ECODE only: ILLEGAL_OP while idle, BUSY while
busy. -/
def Obligations.ReservedCommandByteIsIllegalOp : Prop :=
  ∀ (c : Byte) (s : State),
    (0xB ≤ (opField c).toNat ∨ (opField c ≠ 0xA#4 ∧ rndField c ≠ 0#4)) →
    (s.busy = false →
      exec (.wr cmdIdx (c.setWidth 128)) s = .next { s with ecode := .illegalOp }) ∧
    (s.busy = true → exec (.wr cmdIdx (c.setWidth 128)) s = .next { s with ecode := .busy })

/-- R115, R122, R133: no instruction stops the machine: each answers a next state, in every state. That
one which reads a register without a value does so too, where R140 has a model's fault end the run, is
the model's choice (log entry 2). -/
def Obligations.EveryInstructionAnswersANextState : Prop :=
  ∀ (i : Instr) (s : State), ∃ t, exec i s = .next t

/-! The commands. -/

/-- R112: NOP clears ECODE and changes nothing else; while BUSY it is rejected. Its byte with a RND
field that is not 0 is RESERVED: written while idle, it is ILLEGAL_OP. -/
def Obligations.NopClearsTheErrorCode : Prop :=
  ∀ s : State,
    (s.busy = false → exec .nop s = .next { s with ecode := .none }) ∧
    (s.busy = true → exec .nop s = .next { s with ecode := .busy }) ∧
    (∀ n : BitVec 4, n ≠ 0#4 → decodeCommand (n ++ 0x0#4) = .error .reservedCommand ∧
      (s.busy = false → exec (.wr cmdIdx ((n ++ 0x0#4).setWidth 128)) s =
        .next { s with ecode := .illegalOp }))

/-- R85: EXPAND writes all eleven round keys from KEY, sets KV and clears ECODE, in one event, whatever
KV was; nothing else changes, but for the record of a read of KEY that holds no value (log entry 2).
While BUSY it is rejected. -/
def Obligations.ExpandBuildsTheWholeSchedule : Prop :=
  ∀ s : State,
    (s.busy = false → ∃ t, exec .expand s = .next t ∧
      (∀ i : Fin 11, t.rk[i] = Reg.of (keyExpansion s.key.value)[i]) ∧
      t.kv = true ∧ t.ecode = .none ∧ t.key = s.key ∧ t.state = s.state ∧ s.SameRun t ∧
      s.SameHost t ∧ t.uninit = (s.uninit || !s.key.written)) ∧
    (s.busy = true → exec .expand s = .next { s with ecode := .busy })

/-- R113: ENCRYPT with KV = 1 starts the sequencer at (INIT, 0) with DIR = 0, and changes nothing else;
with KV = 0 it is rejected with NO_SCHEDULE, and while BUSY with BUSY. -/
def Obligations.EncryptStartsTheForwardRun : Prop :=
  ∀ s : State,
    (s.busy = false → s.kv = true → exec .encrypt s =
      .next { s with ecode := .none, dir := .encrypt, phase := .init, round := 0#4, busy := true }) ∧
    (s.busy = false → s.kv = false → exec .encrypt s = .next { s with ecode := .noSchedule }) ∧
    (s.busy = true → exec .encrypt s = .next { s with ecode := .busy })

/-- R114: DECRYPT with KV = 1 starts the sequencer at (INIT, 10) with DIR = 1, and changes nothing
else; with KV = 0 it is rejected with NO_SCHEDULE, and while BUSY with BUSY. -/
def Obligations.DecryptStartsTheInverseRun : Prop :=
  ∀ s : State,
    (s.busy = false → s.kv = true → exec .decrypt s =
      .next { s with ecode := .none, dir := .decrypt, phase := .init, round := 10#4, busy := true }) ∧
    (s.busy = false → s.kv = false → exec .decrypt s = .next { s with ecode := .noSchedule }) ∧
    (s.busy = true → exec .decrypt s = .next { s with ecode := .busy })

/-- R77, R78 with R75, R76: the byte-substitution commands: each byte of STATE through its table,
ECODE <- 0, nothing else but the record of a read of STATE that holds no value (log entry 2). -/
def Obligations.SubBytesCommandsSubstituteEveryByte : Prop :=
  ∀ s : State, s.busy = false →
    exec .subBytes s = .next { s with
      ecode := .none, state := Reg.of (subBytes s.state.value),
      uninit := s.uninit || !s.state.written } ∧
    exec .invSubBytes s = .next { s with
      ecode := .none, state := Reg.of (invSubBytes s.state.value),
      uninit := s.uninit || !s.state.written } ∧
    ∀ (v : Block) (i : Nat), i < 16 →
      byte (subBytes v) i = sbox (byte v i) ∧ byte (invSubBytes v) i = sinv (byte v i)

/-- R93, R94 with R86, R87: the row shifts, place by place: row `r` goes left by `r`, and back. -/
def Obligations.ShiftRowsCommandsRotateTheRows : Prop :=
  ∀ s : State, s.busy = false →
    exec .shiftRows s = .next { s with
      ecode := .none, state := Reg.of (shiftRows s.state.value),
      uninit := s.uninit || !s.state.written } ∧
    exec .invShiftRows s = .next { s with
      ecode := .none, state := Reg.of (invShiftRows s.state.value),
      uninit := s.uninit || !s.state.written } ∧
    ∀ (v : Block) (r c : Nat), r < 4 → c < 4 →
      cell (shiftRows v) r c = cell v r ((c + r) % 4) ∧
      cell (invShiftRows v) r ((c + r) % 4) = cell v r c

/-- R95, R96 with R88 to R91: the column mixes, byte by byte of each column: the XOR of four products
with the rows of the two circulant matrices. -/
def Obligations.MixColumnsCommandsMixEachColumn : Prop :=
  ∀ s : State, s.busy = false →
    exec .mixColumns s = .next { s with
      ecode := .none, state := Reg.of (mixColumns s.state.value),
      uninit := s.uninit || !s.state.written } ∧
    exec .invMixColumns s = .next { s with
      ecode := .none, state := Reg.of (invMixColumns s.state.value),
      uninit := s.uninit || !s.state.written } ∧
    ∀ (v : Block) (c : Nat), c < 4 →
      ∀ a0 a1 a2 a3, a0 = wordByte (col v c) 0 → a1 = wordByte (col v c) 1 →
        a2 = wordByte (col v c) 2 → a3 = wordByte (col v c) 3 →
      wordByte (col (mixColumns v) c) 0 =
        gmul 0x02#8 a0 ^^^ gmul 0x03#8 a1 ^^^ gmul 0x01#8 a2 ^^^ gmul 0x01#8 a3 ∧
      wordByte (col (mixColumns v) c) 1 =
        gmul 0x01#8 a0 ^^^ gmul 0x02#8 a1 ^^^ gmul 0x03#8 a2 ^^^ gmul 0x01#8 a3 ∧
      wordByte (col (mixColumns v) c) 2 =
        gmul 0x01#8 a0 ^^^ gmul 0x01#8 a1 ^^^ gmul 0x02#8 a2 ^^^ gmul 0x03#8 a3 ∧
      wordByte (col (mixColumns v) c) 3 =
        gmul 0x03#8 a0 ^^^ gmul 0x01#8 a1 ^^^ gmul 0x01#8 a2 ^^^ gmul 0x02#8 a3 ∧
      wordByte (col (invMixColumns v) c) 0 =
        gmul 0x0E#8 a0 ^^^ gmul 0x0B#8 a1 ^^^ gmul 0x0D#8 a2 ^^^ gmul 0x09#8 a3 ∧
      wordByte (col (invMixColumns v) c) 1 =
        gmul 0x09#8 a0 ^^^ gmul 0x0E#8 a1 ^^^ gmul 0x0B#8 a2 ^^^ gmul 0x0D#8 a3 ∧
      wordByte (col (invMixColumns v) c) 2 =
        gmul 0x0D#8 a0 ^^^ gmul 0x09#8 a1 ^^^ gmul 0x0E#8 a2 ^^^ gmul 0x0B#8 a3 ∧
      wordByte (col (invMixColumns v) c) 3 =
        gmul 0x0B#8 a0 ^^^ gmul 0x0D#8 a1 ^^^ gmul 0x09#8 a2 ^^^ gmul 0x0E#8 a3

/-- R97, R92: ADD_ROUND_KEY n for n in 0..10 with KV = 1 XORs RK[n] into STATE. -/
def Obligations.AddRoundKeyXorsTheNamedRoundKey : Prop :=
  ∀ (s : State) (n : Fin 11), s.busy = false → s.kv = true →
    exec (.addRoundKey (BitVec.ofNat 4 n)) s = .next { s with
      ecode := .none, state := Reg.of (s.state.value ^^^ s.rk[n].value),
      uninit := s.uninit || !s.state.written || !s.rk[n].written }

/-- R97, R129: ADD_ROUND_KEY turned away: BUSY, then NO_SCHEDULE whatever n is, then BAD_ROUND for n in
11..15; ECODE alone changes. -/
def Obligations.AddRoundKeyIsTurnedAwayInOrder : Prop :=
  ∀ (s : State) (n : BitVec 4),
    (s.busy = true → exec (.addRoundKey n) s = .next { s with ecode := .busy }) ∧
    (s.busy = false → s.kv = false →
      exec (.addRoundKey n) s = .next { s with ecode := .noSchedule }) ∧
    (s.busy = false → s.kv = true → 10 < n.toNat →
      exec (.addRoundKey n) s = .next { s with ecode := .badRound })

/-! Errors. -/

/-- R129: a write of CMD leaves in ECODE the first of BUSY, ILLEGAL_OP, NO_SCHEDULE and BAD_ROUND whose
check fails, and 0 where none does; a write of KEY or STATE has the BUSY check only. -/
def Obligations.CmdWriteReportsTheFirstFailedCheck : Prop :=
  (∀ (c : Byte) (s t : State), exec (.wr cmdIdx (c.setWidth 128)) s = .next t →
    (s.busy = true → t.ecode = .busy) ∧
    (s.busy = false → (∀ i, decodeCommand c ≠ .ok i) → t.ecode = .illegalOp) ∧
    (∀ i, s.busy = false → decodeCommand c = .ok i →
      (i = .encrypt ∨ i = .decrypt ∨ ∃ n, i = .addRoundKey n) → s.kv = false →
        t.ecode = .noSchedule) ∧
    (∀ n : BitVec 4, s.busy = false → decodeCommand c = .ok (.addRoundKey n) → s.kv = true →
      10 < n.toNat → t.ecode = .badRound) ∧
    (∀ i, s.busy = false → decodeCommand c = .ok i →
      ¬((i = .encrypt ∨ i = .decrypt ∨ ∃ n, i = .addRoundKey n) ∧ s.kv = false) →
      ¬(∃ n : BitVec 4, i = .addRoundKey n ∧ 10 < n.toNat) → t.ecode = .none)) ∧
  (∀ (idx : BitVec 5) (v : Block) (s t : State), idx = keyIdx ∨ idx = stateIdx →
    exec (.wr idx v) s = .next t → t.ecode = if s.busy then .busy else s.ecode)

/-- R131: a rejected command or write is precise: whatever it was, a write of CMD, KEY or STATE that
fails its checks changes ECODE and no other bit. -/
def Obligations.RejectionChangesOnlyTheErrorCode : Prop :=
  (∀ (c : Byte) (s : State), s.check (decodeCommand c) ≠ .none →
    exec (.wr cmdIdx (c.setWidth 128)) s =
      .next { s with ecode := s.check (decodeCommand c) }) ∧
  (∀ (idx : BitVec 5) (v : Block) (s : State), idx = keyIdx ∨ idx = stateIdx → s.busy = true →
    exec (.wr idx v) s = .next { s with ecode := .busy })

/-- R132: while BUSY = 1 every write of CMD, KEY or STATE, and so every command, is rejected with BUSY,
writes to other indices are ignored, and reads change no register. -/
def Obligations.BusyBlockTakesNoWrite : Prop :=
  ∀ s : State, s.busy = true →
    (∀ v : Block, exec (.wr cmdIdx v) s = .next { s with ecode := .busy }) ∧
    (∀ v : Block, exec (.wr keyIdx v) s = .next { s with ecode := .busy }) ∧
    (∀ v : Block, exec (.wr stateIdx v) s = .next { s with ecode := .busy }) ∧
    (∀ i : Instr, formatOf i = .command → exec i s = .next { s with ecode := .busy }) ∧
    (∀ (idx : BitVec 5) (v : Block), idx ≠ cmdIdx → idx ≠ keyIdx → idx ≠ stateIdx →
      exec (.wr idx v) s = .next s) ∧
    (∀ idx : BitVec 5, ∃ t, exec (.rd idx) s = .next t ∧ s.SameBlock t)

/-- R11, R140: every read of a register that holds no value is recorded as UNINIT (the record is the
model's, log entry 2): by RD, by EXPAND, by a transform command, by ADD_ROUND_KEY and by a sequencer
step. -/
def Obligations.ReadOfNoValueIsRecorded : Prop :=
  ∀ s t : State,
    (s.key.written = false → exec (.rd keyIdx) s = .next t → t.uninit = true) ∧
    (s.state.written = false → exec (.rd stateIdx) s = .next t → t.uninit = true) ∧
    (∀ i : Fin 11, s.rk[i].written = false → exec (.rd (rkIdx i)) s = .next t →
      t.uninit = true) ∧
    (s.busy = false → s.key.written = false → exec .expand s = .next t → t.uninit = true) ∧
    (∀ i : Instr, i ∈ [.subBytes, .invSubBytes, .shiftRows, .invShiftRows, .mixColumns,
        .invMixColumns] → s.busy = false → s.state.written = false → exec i s = .next t →
      t.uninit = true) ∧
    (∀ n : Fin 11, s.busy = false → s.kv = true → s.state.written = false ∨ s.rk[n].written = false →
      exec (.addRoundKey (BitVec.ofNat 4 n)) s = .next t → t.uninit = true) ∧
    (∀ n : Fin 11, s.busy = true → s.round = BitVec.ofNat 4 n →
      s.state.written = false ∨ s.rk[n].written = false → sequencerStep s = .next t →
      t.uninit = true)

/-- R140: no later event clears a recorded model fault, and nothing records one but a read of a register
that holds no value: by a RD of that register, by a command that reads it, or by a sequencer step, which
reads STATE and RK[ROUND]. The record is the model's (log entry 2). -/
def Obligations.RecordedModelFaultStays : Prop :=
  (∀ s t : State, step s = .next t → s.uninit = true → t.uninit = true) ∧
  (∀ (i : Instr) (s t : State), exec i s = .next t → t.uninit ≠ s.uninit →
    (∃ idx, i = .rd idx ∧ (s.regRead idx).written = false) ∨
    ∃ j, (i = j ∨ ∃ v : Block, i = .wr cmdIdx v ∧ decodeCommand (v.setWidth 8) = .ok j) ∧
      ∃ r ∈ commandReads j s, r.written = false) ∧
  (∀ s t : State, sequencerStep s = .next t → t.uninit ≠ s.uninit →
    s.busy = true ∧ (s.state.written = false ∨ (s.roundKeyReg s.round).written = false)) ∧
  (∀ s t : State, step s = .next t → t.uninit ≠ s.uninit →
    sequencerStep (takeTurn s).2 = .next t ∨
    ∃ bs ms i, s.program = .send bs :: ms ∧ decode .transaction bs = .ok (i, []) ∧
      exec i { (takeTurn s).2 with program := ms } = .next t)

/-! Host access. -/

/-- R115 to R121: what each index reads as, most significant byte first; nothing else changes, but for
the record of a read of a register that holds no value (log entry 2). That what is given back stands
in `output` is the model's choice (log entry 5). -/
def Obligations.ReadGivesTheRegistersPayload : Prop :=
  ∀ s : State,
    exec (.rd cmdIdx) s = .next { s with output := s.output ++ [0x00#8] } ∧
    exec (.rd statusIdx) s = .next { s with
      output := s.output ++ [s.statusWord.extractLsb' 8 8, s.statusWord.extractLsb' 0 8] } ∧
    exec (.rd keyIdx) s = .next { s with
      output := s.output ++ (List.range 16).map (fun j => s.key.value.extractLsb' (120 - 8 * j) 8),
      uninit := s.uninit || !s.key.written } ∧
    exec (.rd stateIdx) s = .next { s with
      output := s.output ++ (List.range 16).map (fun j => s.state.value.extractLsb' (120 - 8 * j) 8),
      uninit := s.uninit || !s.state.written } ∧
    (∀ i : Fin 11, exec (.rd (rkIdx i)) s = .next { s with
      output := s.output ++ (List.range 16).map (fun j => s.rk[i].value.extractLsb' (120 - 8 * j) 8),
      uninit := s.uninit || !s.rk[i].written }) ∧
    (∀ idx : BitVec 5, isReservedIdx idx = true →
      exec (.rd idx) s = .next { s with output := s.output ++ [0x00#8] })

/-- R18, R21 to R25, R117, R127: the places of the STATUS fields and the numbers of their values; bits 3,
10 and 11 read 0. -/
def Obligations.StatusWordHasItsFieldsInPlace : Prop :=
  ∀ s : State,
    s.statusWord.getLsbD 0 = s.busy ∧ s.statusWord.getLsbD 1 = s.kv ∧
    s.statusWord.getLsbD 2 = decide (s.dir = .decrypt) ∧ s.statusWord.getLsbD 3 = false ∧
    s.statusWord.extractLsb' 4 4 = s.ecode.code ∧ s.statusWord.extractLsb' 8 2 = s.phase.code ∧
    s.statusWord.getLsbD 10 = false ∧ s.statusWord.getLsbD 11 = false ∧
    s.statusWord.extractLsb' 12 4 = s.round ∧
    ECode.none.code = 0#4 ∧ ECode.illegalOp.code = 1#4 ∧ ECode.noSchedule.code = 2#4 ∧
    ECode.badRound.code = 3#4 ∧ ECode.busy.code = 4#4 ∧
    Phase.idle.code = 0#2 ∧ Phase.init.code = 1#2 ∧ Phase.rnd.code = 2#2 ∧ Phase.final.code = 3#2

/-- R124: a write of KEY while idle sets KEY and clears KV, also where the value is the old one, and
changes nothing else; while BUSY it is rejected. -/
def Obligations.KeyWriteSetsKeyAndClearsKv : Prop :=
  ∀ (v : Block) (s : State),
    (s.busy = false → exec (.wr keyIdx v) s = .next { s with key := Reg.of v, kv := false }) ∧
    (s.busy = true → exec (.wr keyIdx v) s = .next { s with ecode := .busy })

/-- R125: a write of STATE while idle sets STATE, whatever KV is, and changes nothing else; while BUSY
it is rejected. -/
def Obligations.StateWriteSetsStateOnly : Prop :=
  ∀ (v : Block) (s : State),
    (s.busy = false → exec (.wr stateIdx v) s = .next { s with state := Reg.of v }) ∧
    (s.busy = true → exec (.wr stateIdx v) s = .next { s with ecode := .busy })

/-- R126, R49: a write of STATUS, of RK0 to RK10 or of a reserved index is ignored, whether BUSY or
not; its payload has the index's width. -/
def Obligations.OtherWritesAreIgnored : Prop :=
  ∀ (idx : BitVec 5), (idx = statusIdx ∨ isRoundKeyIdx idx = true ∨ isReservedIdx idx = true) →
    (∀ (v : Block) (s : State), exec (.wr idx v) s = .next s) ∧
    (idx = statusIdx → payloadBytes idx = 2) ∧
    (isRoundKeyIdx idx = true → payloadBytes idx = 16) ∧
    (isReservedIdx idx = true → payloadBytes idx = 1)

/-- R35: CMD is index 0x00, STATUS 0x01, KEY 0x02, STATE 0x03, RK0 to RK10 0x10 to 0x1A, and every other
index is reserved; so each index is exactly one of them. -/
def Obligations.EachIndexNamesOneRegister : Prop :=
  cmdIdx = 0x00#5 ∧ statusIdx = 0x01#5 ∧ keyIdx = 0x02#5 ∧ stateIdx = 0x03#5 ∧
  (∀ i : Fin 11, (rkIdx i).toNat = 0x10 + i.val) ∧
  ∀ idx : BitVec 5,
    (isRoundKeyIdx idx = true ↔ 0x10 ≤ idx.toNat ∧ idx.toNat ≤ 0x1A) ∧
    (isReservedIdx idx = true ↔
      (0x04 ≤ idx.toNat ∧ idx.toNat ≤ 0x0F) ∨ (0x1B ≤ idx.toNat ∧ idx.toNat ≤ 0x1F)) ∧
    [decide (idx = cmdIdx), decide (idx = statusIdx), decide (idx = keyIdx), decide (idx = stateIdx),
      isRoundKeyIdx idx, isReservedIdx idx].count true = 1

/-! Frames. -/

/-- R41, R115: a read of any index changes no register of the block and takes nothing from the host's
program. That the payload is put at the end of `output` is the model's choice (log entry 5). -/
def Obligations.ReadFrame : Prop :=
  ∀ (idx : BitVec 5) (s t : State), exec (.rd idx) s = .next t →
    s.SameBlock t ∧ t.program = s.program ∧ t.order = s.order ∧
    ∃ bs, bs.length = payloadBytes idx ∧ t.output = s.output ++ bs

/-- R77, R78, R93 to R97, R112: NOP, the six transforms and ADD_ROUND_KEY write STATE and ECODE at
most: KEY, the round keys, KV, BUSY, DIR, PHASE, ROUND and the host's side stay. -/
def Obligations.TransformCommandFrame : Prop :=
  ∀ (i : Instr) (s t : State),
    (i ∈ [.nop, .subBytes, .invSubBytes, .shiftRows, .invShiftRows, .mixColumns, .invMixColumns] ∨
      ∃ n, i = .addRoundKey n) →
    exec i s = .next t →
    s.SameKey t ∧ s.SameRun t ∧ s.SameHost t ∧ (i = .nop → t.state = s.state ∧ t.uninit = s.uninit)

/-- R85: EXPAND writes RK0 to RK10, KV and ECODE at most. -/
def Obligations.ExpandFrame : Prop :=
  ∀ s t : State, exec .expand s = .next t →
    t.key = s.key ∧ t.state = s.state ∧ s.SameRun t ∧ s.SameHost t

/-- R113, R114: ENCRYPT and DECRYPT write ECODE, DIR, PHASE, ROUND and BUSY at most; STATE is not changed
at acceptance. -/
def Obligations.RunStartFrame : Prop :=
  ∀ (i : Instr) (s t : State), (i = .encrypt ∨ i = .decrypt) → exec i s = .next t →
    s.SameKey t ∧ s.SameHost t ∧ t.state = s.state ∧ t.uninit = s.uninit

/-- R122, R124 to R126: a write of an index other than CMD leaves the round keys, the run and the host's
side alone, KEY and KV but for a write of KEY, STATE but for a write of STATE, and ECODE but for a
rejection. -/
def Obligations.RegisterWriteFrame : Prop :=
  ∀ (idx : BitVec 5) (v : Block) (s t : State), idx ≠ cmdIdx → exec (.wr idx v) s = .next t →
    t.rk = s.rk ∧ s.SameRun t ∧ s.SameHost t ∧ t.uninit = s.uninit ∧
    (idx ≠ keyIdx → t.key = s.key ∧ t.kv = s.kv) ∧ (idx ≠ stateIdx → t.state = s.state) ∧
    (s.busy = false → t.ecode = s.ecode)

/-- R16: no instruction writes a round key but EXPAND, itself or as the byte of a write of CMD, and a
sequencer step writes none. -/
def Obligations.OnlyExpandWritesTheRoundKeys : Prop :=
  (∀ (i : Instr) (s t : State), exec i s = .next t → t.rk ≠ s.rk →
    i = .expand ∨ ∃ v : Block, i = .wr cmdIdx v ∧ decodeCommand (v.setWidth 8) = .ok .expand) ∧
  (∀ s t : State, sequencerStep s = .next t → t.rk = s.rk)

/-- R14: no command writes KEY; only a write of KEY does. -/
def Obligations.OnlyAKeyWriteWritesKey : Prop :=
  (∀ (i : Instr) (s t : State), exec i s = .next t → t.key ≠ s.key → ∃ v, i = .wr keyIdx v) ∧
  (∀ s t : State, sequencerStep s = .next t → t.key = s.key)

/-- R141: ECODE is written by a command and by a write of CMD, KEY or STATE, by no other instruction and
by no sequencer step. -/
def Obligations.OnlyCommandsAndRejectionsWriteEcode : Prop :=
  (∀ (i : Instr) (s t : State), exec i s = .next t → t.ecode ≠ s.ecode →
    formatOf i = .command ∨
      ∃ idx v, i = .wr idx v ∧ (idx = cmdIdx ∨ ((idx = keyIdx ∨ idx = stateIdx) ∧ s.busy = true))) ∧
  (∀ s t : State, sequencerStep s = .next t → t.ecode = s.ecode)

/-! The sequencer. -/

/-- R103, R104, R105: the three encrypt steps, as the spec writes them. -/
def Obligations.EncryptStepsAreTheForwardRounds : Prop :=
  ∀ s : State, s.busy = true → s.dir = .encrypt →
    (s.phase = .init → s.round = 0#4 → sequencerStep s = .next { s with
      state := Reg.of (s.state.value ^^^ s.rk[0].value), phase := .rnd, round := 1#4,
      uninit := s.uninit || !s.state.written || !s.rk[0].written }) ∧
    (∀ r : Fin 11, 1 ≤ r.val → r.val ≤ 9 → s.phase = .rnd → s.round = BitVec.ofNat 4 r →
      sequencerStep s = .next { s with
        state := Reg.of (mixColumns (shiftRows (subBytes s.state.value)) ^^^ s.rk[r].value),
        phase := if r.val = 9 then .final else .rnd, round := BitVec.ofNat 4 (r.val + 1),
        uninit := s.uninit || !s.state.written || !s.rk[r].written }) ∧
    (s.phase = .final → s.round = 10#4 → sequencerStep s = .next { s with
      state := Reg.of (shiftRows (subBytes s.state.value) ^^^ s.rk[10].value),
      phase := .idle, busy := false,
      uninit := s.uninit || !s.state.written || !s.rk[10].written })

/-- R106, R107, R108: the three decrypt steps, as the spec writes them. -/
def Obligations.DecryptStepsAreTheInverseRounds : Prop :=
  ∀ s : State, s.busy = true → s.dir = .decrypt →
    (s.phase = .init → s.round = 10#4 → sequencerStep s = .next { s with
      state := Reg.of (s.state.value ^^^ s.rk[10].value), phase := .rnd, round := 9#4,
      uninit := s.uninit || !s.state.written || !s.rk[10].written }) ∧
    (∀ r : Fin 11, 1 ≤ r.val → r.val ≤ 9 → s.phase = .rnd → s.round = BitVec.ofNat 4 r →
      sequencerStep s = .next { s with
        state := Reg.of (invMixColumns (invSubBytes (invShiftRows s.state.value) ^^^ s.rk[r].value)),
        phase := if r.val = 1 then .final else .rnd, round := BitVec.ofNat 4 (r.val - 1),
        uninit := s.uninit || !s.state.written || !s.rk[r].written }) ∧
    (s.phase = .final → s.round = 0#4 → sequencerStep s = .next { s with
      state := Reg.of (invSubBytes (invShiftRows s.state.value) ^^^ s.rk[0].value),
      phase := .idle, busy := false,
      uninit := s.uninit || !s.state.written || !s.rk[0].written })

/-- R101, R110: while BUSY = 0 the sequencer has no step; while BUSY = 1 it has one exactly in the
positions of the table, and any other position is UNREACHABLE. -/
def Obligations.SequencerStepsExactlyInItsTable : Prop :=
  ∀ s : State,
    (s.busy = false → sequencerStep s = .next s) ∧
    (s.busy = true → runPosition s.phase s.dir s.round = true → ∃ t, sequencerStep s = .next t) ∧
    (s.busy = true → runPosition s.phase s.dir s.round = false →
      sequencerStep s = .fault .unreachable)

/-- R101, R128: a sequencer step writes STATE, PHASE, ROUND and BUSY at most; it never writes ECODE and
raises nothing. -/
def Obligations.SequencerFrame : Prop :=
  ∀ s t : State, sequencerStep s = .next t →
    s.SameKey t ∧ t.dir = s.dir ∧ t.ecode = s.ecode ∧ s.SameHost t

/-- R109 with R98: from an accepted ENCRYPT, eleven sequencer steps with no turn of the
host's between them leave `Cipher(X, RK)` in STATE,
BUSY = 0, PHASE = IDLE and ROUND = 10, and nothing else changed. -/
def Obligations.ElevenEncryptStepsComputeCipher : Prop :=
  ∀ (s : State) (es : List Turn) (x : Block) (ks : Vector Block 11),
    s.busy = true → s.phase = .init → s.dir = .encrypt → s.round = 0#4 →
    s.order = List.replicate 11 .sequencer ++ es → s.state = Reg.of x →
    (∀ i : Fin 11, s.rk[i] = Reg.of ks[i]) →
    runSteps 11 s = .next { s with
      order := es, state := Reg.of (cipher x ks), phase := .idle, round := 10#4, busy := false }

/-- R109 with R99: from an accepted DECRYPT, eleven sequencer steps with no turn of the
host's between them leave `InvCipher(X, RK)` in STATE,
BUSY = 0, PHASE = IDLE and ROUND = 0, and nothing else changed. -/
def Obligations.ElevenDecryptStepsComputeInvCipher : Prop :=
  ∀ (s : State) (es : List Turn) (x : Block) (ks : Vector Block 11),
    s.busy = true → s.phase = .init → s.dir = .decrypt → s.round = 10#4 →
    s.order = List.replicate 11 .sequencer ++ es → s.state = Reg.of x →
    (∀ i : Fin 11, s.rk[i] = Reg.of ks[i]) →
    runSteps 11 s = .next { s with
      order := es, state := Reg.of (invCipher x ks), phase := .idle, round := 0#4, busy := false }

/-- R100: deciphering undoes enciphering and enciphering undoes deciphering, for every state and every
key. -/
def Obligations.DecipherUndoesEncipher : Prop :=
  ∀ s k : Block,
    invCipher (cipher s (keyExpansion k)) (keyExpansion k) = s ∧
    cipher (invCipher s (keyExpansion k)) (keyExpansion k) = s

/-- R102, R150, R153, R59: a run that is going, with no turn of the host's between, is over after at most
eleven steps, from every state that meets the invariants; a POLL that comes next is then done with one
read, and a host that has nothing more to do leaves the block as it is. That a run with a recorded model
fault goes on to this end is the model's choice (log entry 2), and so is the order of the turns after
`order` is used up (log entry 3). -/
def Obligations.EveryRunEndsWithinElevenSteps : Prop :=
  ∀ s : State, s.Inv → s.busy = true → s.order = [] →
    ∃ (n : Nat) (t : State), 1 ≤ n ∧ n ≤ 11 ∧ runSteps n s = .next t ∧
      t.busy = false ∧ t.phase = .idle ∧ t.ecode = s.ecode ∧ s.SameKey t ∧ s.SameHost t ∧
      (s.program = [] → step t = .next t) ∧
      (∀ ms, s.program = .poll :: ms → ∃ u, step t = .next u ∧ u.program = ms ∧ t.SameBlock u)

/-! Invariants. -/

/-- R27, R28, R29: the invariants hold right after reset. -/
def Obligations.ResetMeetsTheInvariants : Prop := State.reset.Inv

/-- R27, R28, R29: every step, of the host, of the sequencer or of reset, keeps the invariants, from
every state that meets them. (R29's clause "KEY holds a value" is left to runs that have recorded no
model fault, log entry 2.) -/
def Obligations.EveryStepKeepsTheInvariants : Prop :=
  ∀ s t : State, s.Inv → step s = .next t → t.Inv

/-- R30: while BUSY = 1, KEY, RK0 to RK10, KV and DIR do not change except by reset. -/
def Obligations.RunKeepsKeyScheduleAndDirection : Prop :=
  ∀ s t : State, s.busy = true → ¬ s.ResetNext → step s = .next t →
    t.key = s.key ∧ t.rk = s.rk ∧ t.kv = s.kv ∧ t.dir = s.dir

/-- R26: host transactions never move the sequencer's position, but for an accepted ENCRYPT or
DECRYPT. -/
def Obligations.OnlyAcceptedRunsMoveThePosition : Prop :=
  ∀ (i : Instr) (s t : State), exec i s = .next t →
    (t.phase ≠ s.phase ∨ t.round ≠ s.round ∨ t.dir ≠ s.dir ∨ t.busy ≠ s.busy) →
    s.busy = false ∧ s.kv = true ∧ t.busy = true ∧
      ∃ j, (j = .encrypt ∨ j = .decrypt) ∧
        (i = j ∨ ∃ v : Block, i = .wr cmdIdx v ∧ decodeCommand (v.setWidth 8) = .ok j)

/-! Arithmetic and transforms. -/

/-- R67, R66: the table form of `gmul` is `gmul` for every pair of bytes, so it never reads `LOG[0]`,
a read of which is LOG_ZERO. -/
def Obligations.TableFormOfGmulIsGmul : Prop :=
  (∀ a b : Byte, gmulTab a b = .ok (gmul a b)) ∧ readLog 0x00#8 = .error .logZero

/-- R62, R63: `gmul` is the product modulo `x^8 + x^4 + x^3 + x + 1`: it distributes over XOR, commutes,
has zero, and multiplies by 0x02 by a shift and the reduction with 0x1B, which fix it. Identity and
associativity are facts the spec takes from general knowledge (G5, log entry 9). -/
def Obligations.GmulIsTheFieldProduct : Prop :=
  (∀ a : Byte, gmul a 0x00#8 = 0x00#8 ∧ gmul 0x00#8 a = 0x00#8 ∧ gmul a 0x01#8 = a) ∧
  (∀ a : Byte, gmul a 0x02#8 = if a.getLsbD 7 then (a <<< 1) ^^^ 0x1B#8 else a <<< 1) ∧
  (∀ a b : Byte, gmul a b = gmul b a) ∧
  (∀ a b c : Byte, gmul a (b ^^^ c) = gmul a b ^^^ gmul a c) ∧
  (∀ a b c : Byte, gmul a (gmul b c) = gmul (gmul a b) c)

/-- R63 to R66, R68 to R70: EXP is the powers of 0x03, LOG its inverse on the non-zero bytes, `inv` the
multiplicative inverse, RCON the powers of 0x02, and the six multiplier tables are `gmul`. That
`inv(0x00)` is 0x00 is PRESUMED (G4, log entry 9). -/
def Obligations.FieldTablesAreWhatTheirRulesSay : Prop :=
  (expTable 0#8 = 0x01#8 ∧ expTable 255#8 = 0x01#8 ∧
    ∀ i : Byte, i ≠ 255#8 → expTable (i + 1#8) = gmul (expTable i) 0x03#8) ∧
  (∀ a : Byte, a ≠ 0#8 → ∃ l, readLog a = .ok l ∧ l ≠ 255#8 ∧ expTable l = a) ∧
  (∀ i : Byte, i ≠ 255#8 → readLog (expTable i) = .ok i) ∧
  (inv 0#8 = 0#8 ∧ ∀ a : Byte, a ≠ 0#8 → gmul a (inv a) = 0x01#8) ∧
  (∀ a : Byte, gmul a 0x02#8 = xtime a) ∧
  (rcon 0 = 0x01#8 ∧ ∀ j, j < 9 → rcon (j + 1) = xtime (rcon j)) ∧
  (∀ k : Byte, k ∈ [0x02#8, 0x03#8, 0x09#8, 0x0B#8, 0x0D#8, 0x0E#8] →
    ∀ a : Byte, mulTable k a = some (gmul k a))

/-- R71, R73: SBOX is the affine image of the inverse, SINV undoes it both ways, and no byte is its own
image. The affine map is PRESUMED (log entry 9). -/
def Obligations.SboxIsTheAffineImageOfTheInverse : Prop :=
  ∀ x : Byte,
    sbox x = inv x ^^^ (inv x).rotateLeft 1 ^^^ (inv x).rotateLeft 2 ^^^ (inv x).rotateLeft 3 ^^^
      (inv x).rotateLeft 4 ^^^ 0x63#8 ∧
    sinv (sbox x) = x ∧ sbox (sinv x) = x ∧ sbox x ≠ x

/-- R76, R87, R91, R92: each transform and its inverse undo each other, on every state. -/
def Obligations.EveryTransformHasItsInverse : Prop :=
  ∀ s k : Block,
    invSubBytes (subBytes s) = s ∧ subBytes (invSubBytes s) = s ∧
    invShiftRows (shiftRows s) = s ∧ shiftRows (invShiftRows s) = s ∧
    invMixColumns (mixColumns s) = s ∧ mixColumns (invMixColumns s) = s ∧
    addRoundKey (addRoundKey s k) k = s

/-- R86, R87: ShiftRows and InvShiftRows on flat byte indices, by the tables P and Q. -/
def Obligations.ShiftRowsMovesBytesByItsTable : Prop :=
  ∀ (s : Block) (i : Nat), i < 16 →
    byte (shiftRows s) i =
      byte s (([0, 5, 10, 15, 4, 9, 14, 3, 8, 13, 2, 7, 12, 1, 6, 11] : List Nat).getD i 0) ∧
    byte (invShiftRows s) i =
      byte s (([0, 13, 10, 7, 4, 1, 14, 11, 8, 5, 2, 15, 12, 9, 6, 3] : List Nat).getD i 0)

/-- R79 to R83: `rol` turns a word left by one byte and `ssub` puts its bytes through SBOX; round key 0 is
the key; the words of each later one are a chain of XORs that starts with the round word of the last
word before, here byte by byte. That `rol` goes left in this byte order is the spec's own inference
(R79). -/
def Obligations.KeyScheduleIsTheChainOfRoundWords : Prop :=
  (∀ w : Word, wordByte (rol w) 0 = wordByte w 1 ∧ wordByte (rol w) 1 = wordByte w 2 ∧
    wordByte (rol w) 2 = wordByte w 3 ∧ wordByte (rol w) 3 = wordByte w 0) ∧
  (∀ (w : Word) (j : Nat), j < 4 → wordByte (ssub w) j = sbox (wordByte w j)) ∧
  ∀ (k : Block) (i : Fin 10),
    (keyExpansion k)[0] = k ∧
    (∀ p n : Block, p = (keyExpansion k)[i.val] → n = (keyExpansion k)[i.val + 1] →
      wordByte (col n 0) 0 = wordByte (col p 0) 0 ^^^ (sbox (wordByte (col p 3) 1) ^^^ rcon i.val) ∧
      wordByte (col n 0) 1 = wordByte (col p 0) 1 ^^^ sbox (wordByte (col p 3) 2) ∧
      wordByte (col n 0) 2 = wordByte (col p 0) 2 ^^^ sbox (wordByte (col p 3) 3) ∧
      wordByte (col n 0) 3 = wordByte (col p 0) 3 ^^^ sbox (wordByte (col p 3) 0) ∧
      ∀ c, c < 3 → col n (c + 1) = col n c ^^^ col p (c + 1))
end

