-- ==== Sys2Proof/Laws/Assembler.lean ====
section
/-! SUPPORT. What the transcriber sends is a whole transaction: a literal of a register's width is a
payload of that width (R39, R58). -/

namespace Sys2Proof.Machine

/-- A payload has at most sixteen bytes (R49). -/
theorem payloadBytes_le (idx : BitVec 5) : payloadBytes idx ≤ 16 := by
  revert idx; decide

/-- One more digit is four more bits. -/
theorem pushDigit_lt (v : Block) (d : BitVec 4) (m : Nat) (hv : v.toNat < m) (hm : 16 * m ≤ 2 ^ 128) :
    (pushDigit v d).toNat < 16 * m := by
  have hd : d.toNat < 16 := d.isLt
  have hs : (v.toNat <<< 4) % 2 ^ 128 = v.toNat * 16 := by
    rw [Nat.shiftLeft_eq, Nat.mod_eq_of_lt (by omega)]
  have hw : d.toNat % 2 ^ 128 = d.toNat := Nat.mod_eq_of_lt (by omega)
  simp only [pushDigit, BitVec.toNat_or, BitVec.toNat_shiftLeft, BitVec.toNat_setWidth, hs, hw]
  have ho : v.toNat * 16 ||| d.toNat = v.toNat * 16 + d.toNat := by
    rw [Nat.mul_comm]; exact (Nat.two_pow_add_eq_or_of_lt (i := 4) hd v.toNat).symm
  omega

/-- Digits read on from a value. -/
theorem foldDigits_lt (ds : Literal) (v : Block) (m : Nat) (hv : v.toNat < m)
    (hm : m * 16 ^ ds.length ≤ 2 ^ 128) :
    (ds.foldl pushDigit v).toNat < m * 16 ^ ds.length := by
  induction ds generalizing v m with
  | nil => simpa using hv
  | cons d ds ih =>
    have e : m * 16 ^ (d :: ds).length = 16 * m * 16 ^ ds.length := by
      rw [List.length_cons, Nat.pow_succ]; ring
    rw [e] at hm ⊢
    have h1 : 0 < 16 ^ ds.length := Nat.pow_pos (by decide)
    exact ih _ (16 * m) (pushDigit_lt v d m hv (le_trans (Nat.le_mul_of_pos_right _ h1) hm)) hm

/-- A literal of `n` digits is less than `16 ^ n`. -/
theorem literalValue_lt (ds : Literal) (h : ds.length ≤ 32) :
    (literalValue ds).toNat < 16 ^ ds.length := by
  have := foldDigits_lt ds 0#128 1 (by decide) (by
    calc 1 * 16 ^ ds.length = 16 ^ ds.length := Nat.one_mul _
      _ ≤ 16 ^ 32 := Nat.pow_le_pow_right (by decide) h
      _ = 2 ^ 128 := by norm_num)
  simpa [literalValue] using this

/-- A write line the transcriber takes sends the encoding of a well-formed write (R39, R58). -/
theorem Line.move_wr_wf (r : RegName) (ds : Literal) (m : HostMove) (h : (Line.wr r ds).move = .ok m) :
    (Instr.wr r.index (literalValue ds)).wf = true ∧
      m = .send (encode (.wr r.index (literalValue ds))) := by
  simp only [Line.move] at h
  split at h
  case isFalse => cases h
  case isTrue hl =>
    cases h
    refine ⟨?_, rfl⟩
    have hp := payloadBytes_le r.index
    have hv := literalValue_lt ds (by omega)
    simp only [Instr.wf, decide_eq_true_eq]
    have e : (16 : Nat) ^ ds.length = 2 ^ (8 * payloadBytes r.index) := by
      rw [hl, show (16 : Nat) = 2 ^ 4 by rfl, ← Nat.pow_mul]; congr 1; ring
    omega

end Sys2Proof.Machine
end

