-- ==== Sys2Proof/Laws/Bytes.lean ====
section
/-! SUPPORT. The bytes, words and columns of a value built from its parts, and that a value is its
bytes: what every fact about a transform goes through. -/

namespace Sys2Proof.Machine

/-- Byte `i` of a value given by its bytes (R5). -/
theorem byte_ofByteFn (f : Nat → Byte) (i : Nat) (h : i < 16) : byte (ofByteFn f) i = f i := by
  unfold byte ofByteFn
  interval_cases i <;>
    simp (disch := decide) only [BitVec.extractLsb'_append_eq_of_le,
      BitVec.extractLsb'_append_eq_of_add_le, BitVec.extractLsb'_eq_self, Nat.reduceMul, Nat.reduceSub]

/-- A 128-bit value is its sixteen bytes (R4). -/
theorem block_ext (s t : Block) (h : ∀ i, i < 16 → byte s i = byte t i) : s = t := by
  apply BitVec.eq_of_getLsbD_eq
  intro j hj
  have hb := h (15 - j / 8) (by omega)
  have hk := congrArg (fun b : Byte => b.getLsbD (j % 8)) hb
  simp only [byte, BitVec.getLsbD_extractLsb'] at hk
  have e : 120 - 8 * (15 - j / 8) + j % 8 = j := by omega
  have l : j % 8 < 8 := by omega
  simpa [e, l] using hk

/-- A value rebuilt from its own bytes. -/
theorem ofByteFn_byte (s : Block) : (ofByteFn fun i => byte s i) = s :=
  block_ext _ _ fun i h => byte_ofByteFn _ i h

/-- Column `c` of a value given by its columns (R3). -/
theorem col_ofColFn (f : Nat → Word) (c : Nat) (h : c < 4) : col (ofColFn f) c = f c := by
  unfold col ofColFn
  interval_cases c <;>
    simp (disch := decide) only [BitVec.extractLsb'_append_eq_of_le,
      BitVec.extractLsb'_append_eq_of_add_le, BitVec.extractLsb'_eq_self, Nat.reduceMul, Nat.reduceSub]

/-- A 128-bit value is its four columns (R3). -/
theorem block_ext_col (s t : Block) (h : ∀ c, c < 4 → col s c = col t c) : s = t := by
  apply BitVec.eq_of_getLsbD_eq
  intro j hj
  have hb := h (3 - j / 32) (by omega)
  have hk := congrArg (fun b : Word => b.getLsbD (j % 32)) hb
  simp only [col, BitVec.getLsbD_extractLsb'] at hk
  have e : 96 - 32 * (3 - j / 32) + j % 32 = j := by omega
  have l : j % 32 < 32 := by omega
  simpa [e, l] using hk

/-- The bytes of a word given by its bytes (R2). -/
theorem wordByte_ofWordBytes (w0 w1 w2 w3 : Byte) :
    wordByte (ofWordBytes w0 w1 w2 w3) 0 = w0 ∧ wordByte (ofWordBytes w0 w1 w2 w3) 1 = w1 ∧
      wordByte (ofWordBytes w0 w1 w2 w3) 2 = w2 ∧ wordByte (ofWordBytes w0 w1 w2 w3) 3 = w3 := by
  unfold wordByte ofWordBytes
  refine ⟨?_, ?_, ?_, ?_⟩ <;>
    simp (disch := decide) only [BitVec.extractLsb'_append_eq_of_le,
      BitVec.extractLsb'_append_eq_of_add_le, BitVec.extractLsb'_eq_self, Nat.reduceMul, Nat.reduceSub]

/-- A word is its four bytes (R2). -/
theorem ofWordBytes_wordByte (w : Word) :
    ofWordBytes (wordByte w 0) (wordByte w 1) (wordByte w 2) (wordByte w 3) = w := by
  unfold wordByte ofWordBytes
  apply BitVec.eq_of_getLsbD_eq
  intro j hj
  simp only [BitVec.getLsbD_append, BitVec.getLsbD_extractLsb']
  rcases Nat.lt_or_ge j 8 with h | h
  · simp [h]
  rcases Nat.lt_or_ge j 16 with h2 | h2
  · have : j - 8 < 8 := by omega
    simp [Nat.not_lt.mpr h, this, show 8 + (j - 8) = j by omega]
  rcases Nat.lt_or_ge j 24 with h3 | h3
  · have a : ¬ j < 8 := by omega
    have b : ¬ j - 8 < 8 := by omega
    have c : j - 8 - 8 < 8 := by omega
    simp [a, b, c, show 16 + (j - 8 - 8) = j by omega]
  · have a : ¬ j < 8 := by omega
    have b : ¬ j - 8 < 8 := by omega
    have c : ¬ j - 8 - 8 < 8 := by omega
    have d : j - 8 - 8 - 8 < 8 := by omega
    simp [a, b, c, d, show 24 + (j - 8 - 8 - 8) = j by omega]

/-- Byte `i` of SubBytes (R75). -/
theorem byte_subBytes (s : Block) (i : Nat) (h : i < 16) : byte (subBytes s) i = sbox (byte s i) :=
  byte_ofByteFn _ i h

/-- Byte `i` of InvSubBytes (R76). -/
theorem byte_invSubBytes (s : Block) (i : Nat) (h : i < 16) :
    byte (invSubBytes s) i = sinv (byte s i) :=
  byte_ofByteFn _ i h

/-- Column `c` of MixColumns (R89). -/
theorem col_mixColumns (s : Block) (c : Nat) (h : c < 4) :
    col (mixColumns s) c = mixColumn (col s c) :=
  col_ofColFn _ c h

/-- Column `c` of InvMixColumns (R91). -/
theorem col_invMixColumns (s : Block) (c : Nat) (h : c < 4) :
    col (invMixColumns s) c = invMixColumn (col s c) :=
  col_ofColFn _ c h

/-- Round key `i` of a schedule (R83). -/
theorem keyExpansion_getElem (k : Block) (i : Nat) (h : i < 11) :
    (keyExpansion k)[i] = roundKey k i := by
  simp [keyExpansion]

end Sys2Proof.Machine
end

