-- ==== Sys2Proof/Laws/State.lean ====
section
/-! SUPPORT. What each named operation leaves in each field of State: one lemma per field and
operation, so that no later proof unfolds a record update. -/

namespace Sys2Proof.Machine

@[simp] theorem Reg.of_value (v : Block) : (Reg.of v).value = v := rfl
@[simp] theorem Reg.of_written (v : Block) : (Reg.of v).written = true := rfl
@[simp] theorem Reg.noValue_written : Reg.noValue.written = false := rfl

/-! `State.setECode`. -/

@[simp] theorem State.setECode_key (s : State) (e : ECode) : (s.setECode e).key = s.key := rfl
@[simp] theorem State.setECode_state (s : State) (e : ECode) : (s.setECode e).state = s.state := rfl
@[simp] theorem State.setECode_rk (s : State) (e : ECode) : (s.setECode e).rk = s.rk := rfl
@[simp] theorem State.setECode_busy (s : State) (e : ECode) : (s.setECode e).busy = s.busy := rfl
@[simp] theorem State.setECode_kv (s : State) (e : ECode) : (s.setECode e).kv = s.kv := rfl
@[simp] theorem State.setECode_dir (s : State) (e : ECode) : (s.setECode e).dir = s.dir := rfl
@[simp] theorem State.setECode_ecode (s : State) (e : ECode) : (s.setECode e).ecode = e := rfl
@[simp] theorem State.setECode_phase (s : State) (e : ECode) : (s.setECode e).phase = s.phase := rfl
@[simp] theorem State.setECode_round (s : State) (e : ECode) : (s.setECode e).round = s.round := rfl
@[simp] theorem State.setECode_program (s : State) (e : ECode) :
    (s.setECode e).program = s.program := rfl
@[simp] theorem State.setECode_order (s : State) (e : ECode) : (s.setECode e).order = s.order := rfl
@[simp] theorem State.setECode_output (s : State) (e : ECode) :
    (s.setECode e).output = s.output := rfl
@[simp] theorem State.setECode_uninit (s : State) (e : ECode) :
    (s.setECode e).uninit = s.uninit := rfl

/-! `State.reject`. -/

@[simp] theorem State.reject_key (s : State) (e : ECode) : (s.reject e).key = s.key := rfl
@[simp] theorem State.reject_state (s : State) (e : ECode) : (s.reject e).state = s.state := rfl
@[simp] theorem State.reject_rk (s : State) (e : ECode) : (s.reject e).rk = s.rk := rfl
@[simp] theorem State.reject_busy (s : State) (e : ECode) : (s.reject e).busy = s.busy := rfl
@[simp] theorem State.reject_kv (s : State) (e : ECode) : (s.reject e).kv = s.kv := rfl
@[simp] theorem State.reject_dir (s : State) (e : ECode) : (s.reject e).dir = s.dir := rfl
@[simp] theorem State.reject_ecode (s : State) (e : ECode) : (s.reject e).ecode = e := rfl
@[simp] theorem State.reject_phase (s : State) (e : ECode) : (s.reject e).phase = s.phase := rfl
@[simp] theorem State.reject_round (s : State) (e : ECode) : (s.reject e).round = s.round := rfl
@[simp] theorem State.reject_program (s : State) (e : ECode) :
    (s.reject e).program = s.program := rfl
@[simp] theorem State.reject_order (s : State) (e : ECode) : (s.reject e).order = s.order := rfl
@[simp] theorem State.reject_output (s : State) (e : ECode) : (s.reject e).output = s.output := rfl
@[simp] theorem State.reject_uninit (s : State) (e : ECode) : (s.reject e).uninit = s.uninit := rfl

/-! `State.noteRead`. -/

@[simp] theorem State.noteRead_key (s : State) (r : Reg) : (s.noteRead r).key = s.key := rfl
@[simp] theorem State.noteRead_state (s : State) (r : Reg) : (s.noteRead r).state = s.state := rfl
@[simp] theorem State.noteRead_rk (s : State) (r : Reg) : (s.noteRead r).rk = s.rk := rfl
@[simp] theorem State.noteRead_busy (s : State) (r : Reg) : (s.noteRead r).busy = s.busy := rfl
@[simp] theorem State.noteRead_kv (s : State) (r : Reg) : (s.noteRead r).kv = s.kv := rfl
@[simp] theorem State.noteRead_dir (s : State) (r : Reg) : (s.noteRead r).dir = s.dir := rfl
@[simp] theorem State.noteRead_ecode (s : State) (r : Reg) : (s.noteRead r).ecode = s.ecode := rfl
@[simp] theorem State.noteRead_phase (s : State) (r : Reg) : (s.noteRead r).phase = s.phase := rfl
@[simp] theorem State.noteRead_round (s : State) (r : Reg) : (s.noteRead r).round = s.round := rfl
@[simp] theorem State.noteRead_program (s : State) (r : Reg) :
    (s.noteRead r).program = s.program := rfl
@[simp] theorem State.noteRead_order (s : State) (r : Reg) : (s.noteRead r).order = s.order := rfl
@[simp] theorem State.noteRead_output (s : State) (r : Reg) :
    (s.noteRead r).output = s.output := rfl
@[simp] theorem State.noteRead_uninit (s : State) (r : Reg) :
    (s.noteRead r).uninit = (s.uninit || !r.written) := rfl

/-! `State.writeState`. -/

@[simp] theorem State.writeState_key (s : State) (v : Block) : (s.writeState v).key = s.key := rfl
@[simp] theorem State.writeState_state (s : State) (v : Block) :
    (s.writeState v).state = Reg.of v := rfl
@[simp] theorem State.writeState_rk (s : State) (v : Block) : (s.writeState v).rk = s.rk := rfl
@[simp] theorem State.writeState_busy (s : State) (v : Block) :
    (s.writeState v).busy = s.busy := rfl
@[simp] theorem State.writeState_kv (s : State) (v : Block) : (s.writeState v).kv = s.kv := rfl
@[simp] theorem State.writeState_dir (s : State) (v : Block) : (s.writeState v).dir = s.dir := rfl
@[simp] theorem State.writeState_ecode (s : State) (v : Block) :
    (s.writeState v).ecode = s.ecode := rfl
@[simp] theorem State.writeState_phase (s : State) (v : Block) :
    (s.writeState v).phase = s.phase := rfl
@[simp] theorem State.writeState_round (s : State) (v : Block) :
    (s.writeState v).round = s.round := rfl
@[simp] theorem State.writeState_program (s : State) (v : Block) :
    (s.writeState v).program = s.program := rfl
@[simp] theorem State.writeState_order (s : State) (v : Block) :
    (s.writeState v).order = s.order := rfl
@[simp] theorem State.writeState_output (s : State) (v : Block) :
    (s.writeState v).output = s.output := rfl
@[simp] theorem State.writeState_uninit (s : State) (v : Block) :
    (s.writeState v).uninit = s.uninit := rfl

/-! `State.writeKey`. -/

@[simp] theorem State.writeKey_key (s : State) (v : Block) : (s.writeKey v).key = Reg.of v := rfl
@[simp] theorem State.writeKey_state (s : State) (v : Block) : (s.writeKey v).state = s.state := rfl
@[simp] theorem State.writeKey_rk (s : State) (v : Block) : (s.writeKey v).rk = s.rk := rfl
@[simp] theorem State.writeKey_busy (s : State) (v : Block) : (s.writeKey v).busy = s.busy := rfl
@[simp] theorem State.writeKey_kv (s : State) (v : Block) : (s.writeKey v).kv = false := rfl
@[simp] theorem State.writeKey_dir (s : State) (v : Block) : (s.writeKey v).dir = s.dir := rfl
@[simp] theorem State.writeKey_ecode (s : State) (v : Block) : (s.writeKey v).ecode = s.ecode := rfl
@[simp] theorem State.writeKey_phase (s : State) (v : Block) : (s.writeKey v).phase = s.phase := rfl
@[simp] theorem State.writeKey_round (s : State) (v : Block) : (s.writeKey v).round = s.round := rfl
@[simp] theorem State.writeKey_program (s : State) (v : Block) :
    (s.writeKey v).program = s.program := rfl
@[simp] theorem State.writeKey_order (s : State) (v : Block) : (s.writeKey v).order = s.order := rfl
@[simp] theorem State.writeKey_output (s : State) (v : Block) :
    (s.writeKey v).output = s.output := rfl
@[simp] theorem State.writeKey_uninit (s : State) (v : Block) :
    (s.writeKey v).uninit = s.uninit := rfl

/-! `State.writeSchedule`. -/

@[simp] theorem State.writeSchedule_key (s : State) (k : Block) :
    (s.writeSchedule k).key = s.key := rfl
@[simp] theorem State.writeSchedule_state (s : State) (k : Block) :
    (s.writeSchedule k).state = s.state := rfl
@[simp] theorem State.writeSchedule_rk (s : State) (k : Block) :
    (s.writeSchedule k).rk = scheduleRegs k := rfl
@[simp] theorem State.writeSchedule_busy (s : State) (k : Block) :
    (s.writeSchedule k).busy = s.busy := rfl
@[simp] theorem State.writeSchedule_kv (s : State) (k : Block) :
    (s.writeSchedule k).kv = true := rfl
@[simp] theorem State.writeSchedule_dir (s : State) (k : Block) :
    (s.writeSchedule k).dir = s.dir := rfl
@[simp] theorem State.writeSchedule_ecode (s : State) (k : Block) :
    (s.writeSchedule k).ecode = s.ecode := rfl
@[simp] theorem State.writeSchedule_phase (s : State) (k : Block) :
    (s.writeSchedule k).phase = s.phase := rfl
@[simp] theorem State.writeSchedule_round (s : State) (k : Block) :
    (s.writeSchedule k).round = s.round := rfl
@[simp] theorem State.writeSchedule_program (s : State) (k : Block) :
    (s.writeSchedule k).program = s.program := rfl
@[simp] theorem State.writeSchedule_order (s : State) (k : Block) :
    (s.writeSchedule k).order = s.order := rfl
@[simp] theorem State.writeSchedule_output (s : State) (k : Block) :
    (s.writeSchedule k).output = s.output := rfl
@[simp] theorem State.writeSchedule_uninit (s : State) (k : Block) :
    (s.writeSchedule k).uninit = s.uninit := rfl

/-! `State.setPosition`. -/

@[simp] theorem State.setPosition_key (s : State) (p : Phase) (r : BitVec 4) :
    (s.setPosition p r).key = s.key := rfl
@[simp] theorem State.setPosition_state (s : State) (p : Phase) (r : BitVec 4) :
    (s.setPosition p r).state = s.state := rfl
@[simp] theorem State.setPosition_rk (s : State) (p : Phase) (r : BitVec 4) :
    (s.setPosition p r).rk = s.rk := rfl
@[simp] theorem State.setPosition_busy (s : State) (p : Phase) (r : BitVec 4) :
    (s.setPosition p r).busy = s.busy := rfl
@[simp] theorem State.setPosition_kv (s : State) (p : Phase) (r : BitVec 4) :
    (s.setPosition p r).kv = s.kv := rfl
@[simp] theorem State.setPosition_dir (s : State) (p : Phase) (r : BitVec 4) :
    (s.setPosition p r).dir = s.dir := rfl
@[simp] theorem State.setPosition_ecode (s : State) (p : Phase) (r : BitVec 4) :
    (s.setPosition p r).ecode = s.ecode := rfl
@[simp] theorem State.setPosition_phase (s : State) (p : Phase) (r : BitVec 4) :
    (s.setPosition p r).phase = p := rfl
@[simp] theorem State.setPosition_round (s : State) (p : Phase) (r : BitVec 4) :
    (s.setPosition p r).round = r := rfl
@[simp] theorem State.setPosition_program (s : State) (p : Phase) (r : BitVec 4) :
    (s.setPosition p r).program = s.program := rfl
@[simp] theorem State.setPosition_order (s : State) (p : Phase) (r : BitVec 4) :
    (s.setPosition p r).order = s.order := rfl
@[simp] theorem State.setPosition_output (s : State) (p : Phase) (r : BitVec 4) :
    (s.setPosition p r).output = s.output := rfl
@[simp] theorem State.setPosition_uninit (s : State) (p : Phase) (r : BitVec 4) :
    (s.setPosition p r).uninit = s.uninit := rfl

/-! `State.startRun`. -/

@[simp] theorem State.startRun_key (s : State) (d : Dir) (r : BitVec 4) :
    (s.startRun d r).key = s.key := rfl
@[simp] theorem State.startRun_state (s : State) (d : Dir) (r : BitVec 4) :
    (s.startRun d r).state = s.state := rfl
@[simp] theorem State.startRun_rk (s : State) (d : Dir) (r : BitVec 4) :
    (s.startRun d r).rk = s.rk := rfl
@[simp] theorem State.startRun_busy (s : State) (d : Dir) (r : BitVec 4) :
    (s.startRun d r).busy = true := rfl
@[simp] theorem State.startRun_kv (s : State) (d : Dir) (r : BitVec 4) :
    (s.startRun d r).kv = s.kv := rfl
@[simp] theorem State.startRun_dir (s : State) (d : Dir) (r : BitVec 4) :
    (s.startRun d r).dir = d := rfl
@[simp] theorem State.startRun_ecode (s : State) (d : Dir) (r : BitVec 4) :
    (s.startRun d r).ecode = s.ecode := rfl
@[simp] theorem State.startRun_phase (s : State) (d : Dir) (r : BitVec 4) :
    (s.startRun d r).phase = .init := rfl
@[simp] theorem State.startRun_round (s : State) (d : Dir) (r : BitVec 4) :
    (s.startRun d r).round = r := rfl
@[simp] theorem State.startRun_program (s : State) (d : Dir) (r : BitVec 4) :
    (s.startRun d r).program = s.program := rfl
@[simp] theorem State.startRun_order (s : State) (d : Dir) (r : BitVec 4) :
    (s.startRun d r).order = s.order := rfl
@[simp] theorem State.startRun_output (s : State) (d : Dir) (r : BitVec 4) :
    (s.startRun d r).output = s.output := rfl
@[simp] theorem State.startRun_uninit (s : State) (d : Dir) (r : BitVec 4) :
    (s.startRun d r).uninit = s.uninit := rfl

/-! `State.endRun`. -/

@[simp] theorem State.endRun_key (s : State) : (s.endRun).key = s.key := rfl
@[simp] theorem State.endRun_state (s : State) : (s.endRun).state = s.state := rfl
@[simp] theorem State.endRun_rk (s : State) : (s.endRun).rk = s.rk := rfl
@[simp] theorem State.endRun_busy (s : State) : (s.endRun).busy = false := rfl
@[simp] theorem State.endRun_kv (s : State) : (s.endRun).kv = s.kv := rfl
@[simp] theorem State.endRun_dir (s : State) : (s.endRun).dir = s.dir := rfl
@[simp] theorem State.endRun_ecode (s : State) : (s.endRun).ecode = s.ecode := rfl
@[simp] theorem State.endRun_phase (s : State) : (s.endRun).phase = .idle := rfl
@[simp] theorem State.endRun_round (s : State) : (s.endRun).round = s.round := rfl
@[simp] theorem State.endRun_program (s : State) : (s.endRun).program = s.program := rfl
@[simp] theorem State.endRun_order (s : State) : (s.endRun).order = s.order := rfl
@[simp] theorem State.endRun_output (s : State) : (s.endRun).output = s.output := rfl
@[simp] theorem State.endRun_uninit (s : State) : (s.endRun).uninit = s.uninit := rfl

/-! `State.respond`. -/

@[simp] theorem State.respond_key (s : State) (bs : List Byte) : (s.respond bs).key = s.key := rfl
@[simp] theorem State.respond_state (s : State) (bs : List Byte) :
    (s.respond bs).state = s.state := rfl
@[simp] theorem State.respond_rk (s : State) (bs : List Byte) : (s.respond bs).rk = s.rk := rfl
@[simp] theorem State.respond_busy (s : State) (bs : List Byte) :
    (s.respond bs).busy = s.busy := rfl
@[simp] theorem State.respond_kv (s : State) (bs : List Byte) : (s.respond bs).kv = s.kv := rfl
@[simp] theorem State.respond_dir (s : State) (bs : List Byte) : (s.respond bs).dir = s.dir := rfl
@[simp] theorem State.respond_ecode (s : State) (bs : List Byte) :
    (s.respond bs).ecode = s.ecode := rfl
@[simp] theorem State.respond_phase (s : State) (bs : List Byte) :
    (s.respond bs).phase = s.phase := rfl
@[simp] theorem State.respond_round (s : State) (bs : List Byte) :
    (s.respond bs).round = s.round := rfl
@[simp] theorem State.respond_program (s : State) (bs : List Byte) :
    (s.respond bs).program = s.program := rfl
@[simp] theorem State.respond_order (s : State) (bs : List Byte) :
    (s.respond bs).order = s.order := rfl
@[simp] theorem State.respond_output (s : State) (bs : List Byte) :
    (s.respond bs).output = s.output ++ bs := rfl
@[simp] theorem State.respond_uninit (s : State) (bs : List Byte) :
    (s.respond bs).uninit = s.uninit := rfl

/-! `State.mapState`. -/

@[simp] theorem State.mapState_key (s : State) (f : Block → Block) :
    (s.mapState f).key = s.key := rfl
@[simp] theorem State.mapState_state (s : State) (f : Block → Block) :
    (s.mapState f).state = Reg.of (f s.state.value) := rfl
@[simp] theorem State.mapState_rk (s : State) (f : Block → Block) : (s.mapState f).rk = s.rk := rfl
@[simp] theorem State.mapState_busy (s : State) (f : Block → Block) :
    (s.mapState f).busy = s.busy := rfl
@[simp] theorem State.mapState_kv (s : State) (f : Block → Block) : (s.mapState f).kv = s.kv := rfl
@[simp] theorem State.mapState_dir (s : State) (f : Block → Block) :
    (s.mapState f).dir = s.dir := rfl
@[simp] theorem State.mapState_ecode (s : State) (f : Block → Block) :
    (s.mapState f).ecode = s.ecode := rfl
@[simp] theorem State.mapState_phase (s : State) (f : Block → Block) :
    (s.mapState f).phase = s.phase := rfl
@[simp] theorem State.mapState_round (s : State) (f : Block → Block) :
    (s.mapState f).round = s.round := rfl
@[simp] theorem State.mapState_program (s : State) (f : Block → Block) :
    (s.mapState f).program = s.program := rfl
@[simp] theorem State.mapState_order (s : State) (f : Block → Block) :
    (s.mapState f).order = s.order := rfl
@[simp] theorem State.mapState_output (s : State) (f : Block → Block) :
    (s.mapState f).output = s.output := rfl
@[simp] theorem State.mapState_uninit (s : State) (f : Block → Block) :
    (s.mapState f).uninit = (s.uninit || !s.state.written) := rfl

/-! `State.mapStateWithKey`. -/

@[simp] theorem State.mapStateWithKey_key (s : State) (f : Block → Block → Block) (n : BitVec 4) :
    (s.mapStateWithKey f n).key = s.key := rfl
@[simp] theorem State.mapStateWithKey_state (s : State) (f : Block → Block → Block) (n : BitVec 4) :
    (s.mapStateWithKey f n).state = Reg.of (f s.state.value (s.roundKeyReg n).value) := rfl
@[simp] theorem State.mapStateWithKey_rk (s : State) (f : Block → Block → Block) (n : BitVec 4) :
    (s.mapStateWithKey f n).rk = s.rk := rfl
@[simp] theorem State.mapStateWithKey_busy (s : State) (f : Block → Block → Block) (n : BitVec 4) :
    (s.mapStateWithKey f n).busy = s.busy := rfl
@[simp] theorem State.mapStateWithKey_kv (s : State) (f : Block → Block → Block) (n : BitVec 4) :
    (s.mapStateWithKey f n).kv = s.kv := rfl
@[simp] theorem State.mapStateWithKey_dir (s : State) (f : Block → Block → Block) (n : BitVec 4) :
    (s.mapStateWithKey f n).dir = s.dir := rfl
@[simp] theorem State.mapStateWithKey_ecode (s : State) (f : Block → Block → Block) (n : BitVec 4) :
    (s.mapStateWithKey f n).ecode = s.ecode := rfl
@[simp] theorem State.mapStateWithKey_phase (s : State) (f : Block → Block → Block) (n : BitVec 4) :
    (s.mapStateWithKey f n).phase = s.phase := rfl
@[simp] theorem State.mapStateWithKey_round (s : State) (f : Block → Block → Block) (n : BitVec 4) :
    (s.mapStateWithKey f n).round = s.round := rfl
@[simp] theorem State.mapStateWithKey_program (s : State) (f : Block → Block → Block) (n : BitVec 4) :
    (s.mapStateWithKey f n).program = s.program := rfl
@[simp] theorem State.mapStateWithKey_order (s : State) (f : Block → Block → Block) (n : BitVec 4) :
    (s.mapStateWithKey f n).order = s.order := rfl
@[simp] theorem State.mapStateWithKey_output (s : State) (f : Block → Block → Block) (n : BitVec 4) :
    (s.mapStateWithKey f n).output = s.output := rfl
@[simp] theorem State.mapStateWithKey_uninit (s : State) (f : Block → Block → Block) (n : BitVec 4) :
    (s.mapStateWithKey f n).uninit = (s.uninit || !s.state.written || !(s.roundKeyReg n).written) := rfl

/-! `State.resetBlock`. -/

@[simp] theorem State.resetBlock_key (s : State) : (s.resetBlock).key = Reg.noValue := rfl
@[simp] theorem State.resetBlock_state (s : State) : (s.resetBlock).state = Reg.noValue := rfl
@[simp] theorem State.resetBlock_rk (s : State) :
    (s.resetBlock).rk = Vector.replicate 11 Reg.noValue := rfl
@[simp] theorem State.resetBlock_busy (s : State) : (s.resetBlock).busy = false := rfl
@[simp] theorem State.resetBlock_kv (s : State) : (s.resetBlock).kv = false := rfl
@[simp] theorem State.resetBlock_dir (s : State) : (s.resetBlock).dir = .encrypt := rfl
@[simp] theorem State.resetBlock_ecode (s : State) : (s.resetBlock).ecode = .none := rfl
@[simp] theorem State.resetBlock_phase (s : State) : (s.resetBlock).phase = .idle := rfl
@[simp] theorem State.resetBlock_round (s : State) : (s.resetBlock).round = 0#4 := rfl
@[simp] theorem State.resetBlock_program (s : State) : (s.resetBlock).program = s.program := rfl
@[simp] theorem State.resetBlock_order (s : State) : (s.resetBlock).order = s.order := rfl
@[simp] theorem State.resetBlock_output (s : State) : (s.resetBlock).output = s.output := rfl
@[simp] theorem State.resetBlock_uninit (s : State) : (s.resetBlock).uninit = s.uninit := rfl

/-! `State.sendFirst`. -/

@[simp] theorem State.sendFirst_key (s : State) (bs : List Byte) :
    (s.sendFirst bs).key = s.key := rfl
@[simp] theorem State.sendFirst_state (s : State) (bs : List Byte) :
    (s.sendFirst bs).state = s.state := rfl
@[simp] theorem State.sendFirst_rk (s : State) (bs : List Byte) : (s.sendFirst bs).rk = s.rk := rfl
@[simp] theorem State.sendFirst_busy (s : State) (bs : List Byte) :
    (s.sendFirst bs).busy = s.busy := rfl
@[simp] theorem State.sendFirst_kv (s : State) (bs : List Byte) : (s.sendFirst bs).kv = s.kv := rfl
@[simp] theorem State.sendFirst_dir (s : State) (bs : List Byte) :
    (s.sendFirst bs).dir = s.dir := rfl
@[simp] theorem State.sendFirst_ecode (s : State) (bs : List Byte) :
    (s.sendFirst bs).ecode = s.ecode := rfl
@[simp] theorem State.sendFirst_phase (s : State) (bs : List Byte) :
    (s.sendFirst bs).phase = s.phase := rfl
@[simp] theorem State.sendFirst_round (s : State) (bs : List Byte) :
    (s.sendFirst bs).round = s.round := rfl
@[simp] theorem State.sendFirst_program (s : State) (bs : List Byte) :
    (s.sendFirst bs).program = .send bs :: s.program := rfl
@[simp] theorem State.sendFirst_order (s : State) (bs : List Byte) :
    (s.sendFirst bs).order = .host :: s.order := rfl
@[simp] theorem State.sendFirst_output (s : State) (bs : List Byte) :
    (s.sendFirst bs).output = s.output := rfl
@[simp] theorem State.sendFirst_uninit (s : State) (bs : List Byte) :
    (s.sendFirst bs).uninit = s.uninit := rfl

/-! The round-key registers and STATUS seen through an operation that writes neither. -/

@[simp] theorem State.setECode_roundKeyReg (s : State) (e : ECode) (n : BitVec 4) :
    (s.setECode e).roundKeyReg n = s.roundKeyReg n := rfl
@[simp] theorem State.noteRead_roundKeyReg (s : State) (r : Reg) (n : BitVec 4) :
    (s.noteRead r).roundKeyReg n = s.roundKeyReg n := rfl
@[simp] theorem State.writeState_roundKeyReg (s : State) (v : Block) (n : BitVec 4) :
    (s.writeState v).roundKeyReg n = s.roundKeyReg n := rfl

/-- A register that holds a value leaves no mark when it is read. -/
theorem State.noteRead_of_written (s : State) (r : Reg) (h : r.written = true) : s.noteRead r = s := by
  simp [State.noteRead, h]

/-- `RK[n]` for an index that names a register. -/
theorem State.roundKeyReg_of_lt (s : State) (n : BitVec 4) (h : n.toNat < 11) :
    s.roundKeyReg n = s.rk[n.toNat] := by
  simp [State.roundKeyReg, h]

/-- The schedule's register `i` holds round key `i`. -/
theorem scheduleRegs_getElem (k : Block) (i : Nat) (h : i < 11) :
    (scheduleRegs k)[i] = Reg.of (roundKey k i) := by
  simp [scheduleRegs, keyExpansion]

end Sys2Proof.Machine
end

