-- ==== Sys2Proof/Laws/Ops.lean ====
section
/-! SUPPORT. What each shared operation can do, said once. -/

namespace Sys2Proof.Machine

/-- `Check` while a run is going (R129). -/
theorem State.check_busy (s : State) (cmd : Except DecodeError Instr) (h : s.busy = true) :
    s.check cmd = .busy := by
  simp [State.check, h]

/-- `Check` of a RESERVED byte while idle (R129). -/
theorem State.check_error (s : State) (e : DecodeError) (h : s.busy = false) :
    s.check (.error e) = .illegalOp := by
  simp [State.check, h]

/-- `Check` of a command while idle (R129). -/
theorem State.check_ok (s : State) (i : Instr) (h : s.busy = false) :
    s.check (.ok i) =
      if needsSchedule i && !s.kv then .noSchedule
      else if namesNoRoundKey i then .badRound else .none := by
  simp [State.check, h]

/-- An accepted command: ECODE <- 0, then the effect (R123). -/
theorem State.issue_of_accepted (s : State) (cmd : Except DecodeError Instr) (effect : State → State)
    (h : s.check cmd = .none) : s.issue cmd effect = effect (s.setECode .none) := by
  simp [State.issue, h]

/-- A rejected command: its code into ECODE, and nothing else (R131). -/
theorem State.issue_of_rejected (s : State) (cmd : Except DecodeError Instr) (effect : State → State)
    (h : s.check cmd ≠ .none) : s.issue cmd effect = s.reject (s.check cmd) := by
  unfold State.issue
  cases hc : s.check cmd <;> simp_all

/-- Everything `issue` can do. -/
theorem State.issue_cases (s : State) (cmd : Except DecodeError Instr) (effect : State → State) :
    (s.check cmd = .none ∧ s.issue cmd effect = effect (s.setECode .none)) ∨
      (s.check cmd ≠ .none ∧ s.issue cmd effect = s.reject (s.check cmd)) := by
  by_cases h : s.check cmd = .none
  · exact .inl ⟨h, s.issue_of_accepted cmd effect h⟩
  · exact .inr ⟨h, s.issue_of_rejected cmd effect h⟩

/-- Everything a write of KEY or STATE can do (R124, R125, R132). -/
theorem State.whenIdle_cases (s : State) (effect : State → State) :
    (s.busy = false ∧ s.whenIdle effect = effect s) ∨
      (s.busy = true ∧ s.whenIdle effect = s.reject .busy) := by
  cases h : s.busy <;> simp [State.whenIdle, h]

/-- The opcode map names commands only (R54). -/
theorem commandOf_isCommand (op rnd : BitVec 4) (i : Instr) (h : commandOf op rnd = .ok i) :
    formatOf i = .command := by
  unfold commandOf at h
  repeat (split at h; (cases h; rfl))
  cases h

/-- A command byte never decodes to a transaction (R55). -/
theorem decodeCommand_isCommand (c : Byte) (i : Instr) (h : decodeCommand c = .ok i) :
    formatOf i = .command := by
  unfold decodeCommand at h
  split at h
  · cases h
  · split at h
    · cases h
    · exact commandOf_isCommand _ _ _ h

/-- Everything the sequencer's turn can do (R101). -/
theorem sequencerStep_cases (s t : State) (h : sequencerStep s = .next t) :
    (s.busy = false ∧ t = s) ∨
    (s.busy = true ∧ s.phase = .init ∧ s.dir = .encrypt ∧ s.round = 0#4 ∧ t = encInitialStep s) ∨
    (s.busy = true ∧ s.phase = .rnd ∧ s.dir = .encrypt ∧ isMiddleRound s.round = true ∧
      t = encRoundStep s) ∨
    (s.busy = true ∧ s.phase = .final ∧ s.dir = .encrypt ∧ s.round = 10#4 ∧ t = encFinalStep s) ∨
    (s.busy = true ∧ s.phase = .init ∧ s.dir = .decrypt ∧ s.round = 10#4 ∧ t = decInitialStep s) ∨
    (s.busy = true ∧ s.phase = .rnd ∧ s.dir = .decrypt ∧ isMiddleRound s.round = true ∧
      t = decRoundStep s) ∨
    (s.busy = true ∧ s.phase = .final ∧ s.dir = .decrypt ∧ s.round = 0#4 ∧ t = decFinalStep s) := by
  unfold sequencerStep at h
  split at h
  case isFalse hb => cases h; simp_all
  case isTrue hb =>
    unfold busyStep at h
    split at h
    all_goals first
      | (split at h
         · cases h; simp_all
         · cases h)
      | cases h

/-- Everything the taking of bytes can do (R39, R49). -/
theorem takeBytes_cases (bs : List Byte) (s t : State) (h : takeBytes bs s = .next t) :
    ∃ i, decode .transaction bs = .ok (i, []) ∧ exec i s = .next t := by
  unfold takeBytes at h
  split at h
  case h_1 i hd => exact ⟨i, hd, h⟩
  case h_2 => cases h
  case h_3 => cases h

/-- Everything the host's turn can do (R152). -/
theorem hostTurn_cases (s t : State) (h : hostTurn s = .next t) :
    (s.program = [] ∧ t = s) ∨
    (∃ bs ms i, s.program = .send bs :: ms ∧ decode .transaction bs = .ok (i, []) ∧
      exec i { s with program := ms } = .next t) ∨
    (∃ ms, s.program = .poll :: ms ∧ pollTurn ms s = .next t) ∨
    (∃ ms, s.program = .reset :: ms ∧ t = { s with program := ms }.resetBlock) := by
  unfold hostTurn at h
  split at h
  case h_1 hp => cases h; exact .inl ⟨hp, rfl⟩
  case h_2 bs ms hp =>
    obtain ⟨i, hd, he⟩ := takeBytes_cases _ _ _ h
    exact .inr (.inl ⟨bs, ms, i, hp, hd, he⟩)
  case h_3 ms hp => exact .inr (.inr (.inl ⟨ms, hp, h⟩))
  case h_4 ms hp => cases h; exact .inr (.inr (.inr ⟨ms, hp, rfl⟩))

/-- Bit 0 of STATUS is BUSY (R18). -/
theorem State.statusWord_bit_zero (s : State) : s.statusWord.getLsbD 0 = s.busy := by
  unfold State.statusWord
  simp only [BitVec.getLsbD_append]
  simp

/-- A read of a POLL gives STATUS back; it is done exactly where BUSY = 0 (R59). -/
theorem pollTurn_eq (ms : List HostMove) (s : State) :
    pollTurn ms s = exec (.rd statusIdx) (if s.busy then s else { s with program := ms }) := by
  rw [pollTurn, State.statusWord_bit_zero]

/-- The turn of a step, and the rest of the order (R43). -/
theorem takeTurn_cons (s : State) (e : Turn) (es : List Turn) (h : s.order = e :: es) :
    takeTurn s = (e, { s with order := es }) := by
  simp [takeTurn, h]

/-- The turn of a step when the order is used up. -/
theorem takeTurn_nil (s : State) (h : s.order = []) :
    takeTurn s = (if s.busy then .sequencer else .host, s) := by
  simp [takeTurn, h]

/-- Everything a step can do. -/
theorem step_cases (s t : State) (h : step s = .next t) :
    ((takeTurn s).1 = .host ∧ hostTurn (takeTurn s).2 = .next t) ∨
      ((takeTurn s).1 = .sequencer ∧ sequencerStep (takeTurn s).2 = .next t) := by
  unfold step runTurn at h
  split at h
  case h_1 e => exact .inl ⟨e, h⟩
  case h_2 e => exact .inr ⟨e, h⟩

/-- Taking the next turn off the order changes nothing else. -/
theorem takeTurn_state (s : State) : ∃ es, (takeTurn s).2 = { s with order := es } := by
  unfold takeTurn
  split
  · exact ⟨_, rfl⟩
  · exact ⟨s.order, rfl⟩

end Sys2Proof.Machine
end

