-- ==== Sys2Proof/Laws/PerInstr.lean ====
section
/-! SUPPORT. Families of facts stated per instruction. -/

namespace Sys2Proof.Laws

/-- The first byte of an instruction's encoding matches its row of spec/opcode_table.json. -/
def TableRow.Statement (i : Instr) : Prop :=
  ∃ b rest, encode i = b :: rest ∧ b &&& tableMask i = tableMatch i

theorem TableRow.nop : TableRow.Statement .nop := ⟨_, _, rfl, by decide⟩
theorem TableRow.expand : TableRow.Statement .expand := ⟨_, _, rfl, by decide⟩
theorem TableRow.encrypt : TableRow.Statement .encrypt := ⟨_, _, rfl, by decide⟩
theorem TableRow.decrypt : TableRow.Statement .decrypt := ⟨_, _, rfl, by decide⟩
theorem TableRow.subBytes : TableRow.Statement .subBytes := ⟨_, _, rfl, by decide⟩
theorem TableRow.invSubBytes : TableRow.Statement .invSubBytes := ⟨_, _, rfl, by decide⟩
theorem TableRow.shiftRows : TableRow.Statement .shiftRows := ⟨_, _, rfl, by decide⟩
theorem TableRow.invShiftRows : TableRow.Statement .invShiftRows := ⟨_, _, rfl, by decide⟩
theorem TableRow.mixColumns : TableRow.Statement .mixColumns := ⟨_, _, rfl, by decide⟩
theorem TableRow.invMixColumns : TableRow.Statement .invMixColumns := ⟨_, _, rfl, by decide⟩

theorem TableRow.addRoundKey (n : BitVec 4) : TableRow.Statement (.addRoundKey n) :=
  ⟨_, _, rfl, by revert n; decide⟩

theorem TableRow.rd (idx : BitVec 5) : TableRow.Statement (.rd idx) :=
  ⟨_, _, rfl, by revert idx; decide⟩

theorem TableRow.wr (idx : BitVec 5) (v : Block) : TableRow.Statement (.wr idx v) := by
  refine ⟨_, _, rfl, ?_⟩
  simp only [tableMask, tableMatch]
  revert idx
  decide

end Sys2Proof.Laws
end

