-- ==== Sys2Proof/Laws/Run.lean ====
section
/-! SUPPORT. A run of the machine, one step at a time. -/

namespace Sys2Proof.Machine

/-- No steps leave the state as it is. -/
theorem runSteps_zero (s : State) : runSteps 0 s = .next s := rfl

/-- A step that answers a next state is the first of a run. -/
theorem runSteps_succ (n : Nat) (s t : State) (h : step s = .next t) :
    runSteps (n + 1) s = runSteps n t := by
  simp only [runSteps, h]

/-- `runSteps` is the host's run of this machine. -/
theorem core_run_eq (n : Nat) (s : State) : Host.Core.run Sys2Proof.core n s = runSteps n s := by
  induction n generalizing s with
  | zero => rfl
  | succ n ih =>
    cases h : step s with
    | next t =>
      have hc : Sys2Proof.core.step s = .next t := h
      simp only [Host.Core.run, hc, runSteps, h]
      exact ih t
    | fault f =>
      have hc : Sys2Proof.core.step s = .fault f := h
      simp only [Host.Core.run, hc, runSteps, h]
      rfl
    | refused r =>
      have hc : Sys2Proof.core.step s = .refused r := h
      simp only [Host.Core.run, hc, runSteps, h]
      rfl

/-- The sequencer's turn, where the order names it next. -/
theorem step_sequencer (s : State) (es : List Turn) (h : s.order = .sequencer :: es) :
    step s = sequencerStep { s with order := es } := by
  simp [step, takeTurn, h, runTurn]

/-- The sequencer's turn, where the order is used up and a run is going. -/
theorem step_run_goes_on (s : State) (ho : s.order = []) (hb : s.busy = true) :
    step s = sequencerStep s := by
  simp [step, takeTurn, ho, hb, runTurn]

/-- The host's turn, where the order names it next. -/
theorem step_host (s : State) (es : List Turn) (h : s.order = .host :: es) :
    step s = hostTurn { s with order := es } := by
  simp [step, takeTurn, h, runTurn]

end Sys2Proof.Machine
end

