-- ==== Sys2Proof/Tests/Slice0.lean ====
section
/-! SUPPORT. Tests whose expected values are the vectors of spec/95_test_vectors.md and the encodings of
30_encoding.md, and a witness for every statement that has hypotheses. -/

namespace Sys2Proof.Tests

open Sys2Proof Sys2Proof.Machine

/-- The source's test key (95_test_vectors.md E1). -/
def testKey : Block := 0x2b7e151628aed2a6abf7158809cf4f3c#128

/-- The source's plaintext (95_test_vectors.md E4). -/
def plain : Block := 0x3243f6a8885a308d313198a2e0370734#128

/-- "Idle, KEY and STATE written, KV = 0" (95_test_vectors.md section 2.8). -/
def idleNoKv : State := { State.reset with key := Reg.of testKey, state := Reg.of plain }

/-- "Idle, KV = 1" (section 2.8). -/
def idleKv : State := { idleNoKv with rk := scheduleRegs testKey, kv := true }

/-- "Busy": ENCRYPT accepted, before any step (section 2.8). -/
def busy : State := { idleKv with phase := .init, round := 0#4, busy := true }

/-- A running ENCRYPT at a phase, a round and a STATE (section 2.5). -/
def encAt (p : Phase) (r : BitVec 4) (v : Block) : State :=
  { busy with phase := p, round := r, state := Reg.of v }

/-- A running DECRYPT at a phase, a round and a STATE (section 2.5). -/
def decAt (p : Phase) (r : BitVec 4) (v : Block) : State := { encAt p r v with dir := .decrypt }

/-- The next state, where there is one. -/
def after : Outcome → Option State
  | .next t => some t
  | .fault _ => none
  | .refused _ => none

/-- STATUS after an outcome. -/
def statusAfter (o : Outcome) : Option (BitVec 16) := (after o).map (·.statusWord)

/-- The bits of STATE after an outcome. -/
def stateAfter (o : Outcome) : Option Block := (after o).map (·.state.value)

/-- What an outcome has given back to the host. -/
def outputAfter (o : Outcome) : Option (List Byte) := (after o).map (·.output)

/-! Well-formedness: the one check is a write's payload width (R49), here an ill-formed term for each
width it has. -/

theorem test_wf_refuses_wide_cmd_payload : (Instr.wr 0x00#5 0x100#128).wf = false := by decide
theorem test_wf_refuses_wide_status_payload : (Instr.wr 0x01#5 0x10000#128).wf = false := by decide
theorem test_wf_refuses_wide_reserved_payload : (Instr.wr 0x1F#5 0x100#128).wf = false := by decide
theorem test_wf_takes_full_payloads :
    (Instr.wr 0x00#5 0xFF#128).wf ∧ (Instr.wr 0x01#5 0xFFFF#128).wf ∧
      (Instr.wr 0x02#5 0xffffffffffffffffffffffffffffffff#128).wf := by decide

/-! Decoding, each word written out from R48, R52 and R54 (section 2.7; R59's example listing). -/

theorem test_decode_nop : decodeCommand 0b0000_0000#8 = .ok .nop := by decide
theorem test_decode_expand : decodeCommand 0b0000_0001#8 = .ok .expand := by decide
theorem test_decode_encrypt : decodeCommand 0b0000_0010#8 = .ok .encrypt := by decide
theorem test_decode_decrypt : decodeCommand 0b0000_0011#8 = .ok .decrypt := by decide
theorem test_decode_subBytes : decodeCommand 0b0000_0100#8 = .ok .subBytes := by decide
theorem test_decode_invSubBytes : decodeCommand 0b0000_0101#8 = .ok .invSubBytes := by decide
theorem test_decode_shiftRows : decodeCommand 0b0000_0110#8 = .ok .shiftRows := by decide
theorem test_decode_invShiftRows : decodeCommand 0b0000_0111#8 = .ok .invShiftRows := by decide
theorem test_decode_mixColumns : decodeCommand 0b0000_1000#8 = .ok .mixColumns := by decide
theorem test_decode_invMixColumns : decodeCommand 0b0000_1001#8 = .ok .invMixColumns := by decide
theorem test_decode_addRoundKey : decodeCommand 0b0011_1010#8 = .ok (.addRoundKey 3#4) := by decide
theorem test_decode_addRoundKey_no_key :
    decodeCommand 0b1011_1010#8 = .ok (.addRoundKey 11#4) := by decide
theorem test_decode_reserved :
    decodeCommand 0b0000_1011#8 = .error .reservedCommand ∧
      decodeCommand 0b0001_0100#8 = .error .reservedCommand := by decide
theorem test_decode_rd_rk10 :
    decode .transaction [0b0001_1010#8, 0x80#8] = .ok (.rd 0x1A#5, [0x80#8]) := by decide
theorem test_decode_wr_cmd :
    decode .transaction [0b1000_0000#8, 0x3A#8, 0x01#8] = .ok (.wr 0#5 0x3A#128, [0x01#8]) := by
  decide
theorem test_decode_wr_status :
    decode .transaction [0b1000_0001#8, 0x12#8, 0x34#8] = .ok (.wr 1#5 0x1234#128, []) := by decide
theorem test_decode_wr_short : decode .transaction [0x81#8, 0x12#8] = .error .shortPayload := by decide
theorem test_encode_wr_key :
    encode (.wr 0x02#5 testKey) = [0x82#8, 0x2b#8, 0x7e#8, 0x15#8, 0x16#8, 0x28#8, 0xae#8, 0xd2#8,
      0xa6#8, 0xab#8, 0xf7#8, 0x15#8, 0x88#8, 0x09#8, 0xcf#8, 0x4f#8, 0x3c#8] := by decide

/-! Words of spec/opcode_table.json, and the step that runs one. -/

theorem test_table_word_command : decodeTableWord 8 0x3A = some (.addRoundKey 3#4) := by decide
theorem test_table_word_rd : decodeTableWord 8 0x10 = some (.rd 0x10#5) := by decide
theorem test_table_word_wr : decodeTableWord 8 0x82 = some (.wr 0x02#5 0#128) := by decide
theorem test_fetch_runs_the_command :
    statusAfter (step (State.reset.withFetchWord 8 0x02)) = some 0x0020#16 := by decide
theorem test_fetch_runs_the_write :
    (after (step (State.reset.withFetchWord 8 0x83))).map (·.state) = some (Reg.of 0#128) := by decide

/-! The commands (section 2.8). -/

theorem test_nop_after_reset : statusAfter (exec (.wr cmdIdx 0x00#128) State.reset) = some 0x0000#16 := by
  decide
theorem test_nop_clears_ecode :
    statusAfter (exec .nop { idleKv with ecode := .illegalOp }) = some 0x0002#16 := by decide
theorem test_expand_status : statusAfter (exec .expand idleNoKv) = some 0x0002#16 := by decide
theorem test_expand_writes_rk1 :
    (after (exec .expand idleNoKv)).map (fun t => t.rk[1].value) =
      some 0xa0fafe1788542cb123a339392a6c7605#128 := by decide +kernel
theorem test_encrypt_accepted : statusAfter (exec .encrypt idleKv) = some 0x0103#16 := by decide
theorem test_encrypt_no_schedule : statusAfter (exec .encrypt idleNoKv) = some 0x0020#16 := by decide
theorem test_decrypt_accepted : statusAfter (exec .decrypt idleKv) = some 0xa107#16 := by decide
theorem test_decrypt_no_schedule : statusAfter (exec .decrypt idleNoKv) = some 0x0020#16 := by decide
theorem test_subBytes :
    stateAfter (exec .subBytes (encAt .idle 0#4 0x193de3bea0f4e22b9ac68d2ae9f84808#128 |> fun s =>
      { s with busy := false })) = some 0xd42711aee0bf98f1b8b45de51e415230#128 := by decide +kernel
theorem test_invSubBytes :
    stateAfter (exec .invSubBytes { idleKv with state := Reg.of 0x000102030405060708090a0b0c0d0e0f#128 }) =
      some 0x52096ad53036a538bf40a39e81f3d7fb#128 := by decide +kernel
theorem test_shiftRows :
    stateAfter (exec .shiftRows { idleKv with state := Reg.of 0x000102030405060708090a0b0c0d0e0f#128 }) =
      some 0x00050a0f04090e03080d02070c01060b#128 := by decide +kernel
theorem test_invShiftRows :
    stateAfter (exec .invShiftRows { idleKv with state := Reg.of 0x000102030405060708090a0b0c0d0e0f#128 }) =
      some 0x000d0a0704010e0b0805020f0c090603#128 := by decide +kernel
theorem test_mixColumns :
    stateAfter (exec .mixColumns { idleKv with state := Reg.of 0xd4bf5d30e0b452aeb84111f11e2798e5#128 }) =
      some 0x046681e5e0cb199a48f8d37a2806264c#128 := by decide +kernel
theorem test_invMixColumns :
    stateAfter (exec .invMixColumns { idleKv with state := Reg.of 0x046681e5e0cb199a48f8d37a2806264c#128 }) =
      some 0xd4bf5d30e0b452aeb84111f11e2798e5#128 := by decide +kernel
theorem test_addRoundKey :
    stateAfter (exec (.addRoundKey 1#4)
      { idleKv with state := Reg.of 0x046681e5e0cb199a48f8d37a2806264c#128 }) =
      some 0xa49c7ff2689f352b6b5bea43026a5049#128 := by decide +kernel
theorem test_addRoundKey_bad_round :
    statusAfter (exec (.wr cmdIdx 0xBA#128) idleKv) = some 0x0032#16 ∧
      statusAfter (exec (.wr cmdIdx 0xBA#128) idleNoKv) = some 0x0020#16 := by decide
theorem test_rd_status_while_busy : outputAfter (exec (.rd 0x01#5) busy) = some [0x01#8, 0x03#8] := by
  decide
theorem test_rd_state_first_byte_first :
    (outputAfter (exec (.rd 0x03#5) idleNoKv)).map (·.take 2) = some [0x32#8, 0x43#8] := by decide
theorem test_wr_busy_before_illegal_op :
    statusAfter (exec (.wr cmdIdx 0xFF#128) busy) = some 0x0143#16 ∧
      statusAfter (exec (.wr cmdIdx 0xFF#128) idleKv) = some 0x0012#16 := by decide
theorem test_wr_key_clears_kv :
    statusAfter (exec (.wr keyIdx testKey) idleKv) = some 0x0000#16 ∧
      statusAfter (exec (.wr keyIdx 0#128) busy) = some 0x0143#16 := by decide

/-! The sequencer: single steps of the traces of section 2.5. -/

theorem test_step_enc_init :
    stateAfter (sequencerStep busy) = some 0x193de3bea0f4e22b9ac68d2ae9f84808#128 ∧
      statusAfter (sequencerStep busy) = some 0x1203#16 := by decide +kernel
theorem test_step_enc_round9 :
    stateAfter (sequencerStep (encAt .rnd 9#4 0xea835cf00445332d655d98ad8596b0c5#128)) =
        some 0xeb40f21e592e38848ba113e71bc342d2#128 ∧
      statusAfter (sequencerStep (encAt .rnd 9#4 0xea835cf00445332d655d98ad8596b0c5#128)) =
        some 0xa303#16 := by decide +kernel
theorem test_step_enc_final :
    stateAfter (sequencerStep (encAt .final 10#4 0xeb40f21e592e38848ba113e71bc342d2#128)) =
        some 0x3925841d02dc09fbdc118597196a0b32#128 ∧
      statusAfter (sequencerStep (encAt .final 10#4 0xeb40f21e592e38848ba113e71bc342d2#128)) =
        some 0xa002#16 := by decide +kernel
theorem test_step_dec_init :
    stateAfter (sequencerStep (decAt .init 10#4 0x3925841d02dc09fbdc118597196a0b32#128)) =
        some 0xe9317db5cb322c723d2e895faf090794#128 ∧
      statusAfter (sequencerStep (decAt .init 10#4 0x3925841d02dc09fbdc118597196a0b32#128)) =
        some 0x9207#16 := by decide +kernel
theorem test_step_dec_round1 :
    stateAfter (sequencerStep (decAt .rnd 1#4 0x49db873b453953897f02d2f177de961a#128)) =
        some 0xd4bf5d30e0b452aeb84111f11e2798e5#128 ∧
      statusAfter (sequencerStep (decAt .rnd 1#4 0x49db873b453953897f02d2f177de961a#128)) =
        some 0x0307#16 := by decide +kernel
theorem test_step_dec_final :
    stateAfter (sequencerStep (decAt .final 0#4 0xd4bf5d30e0b452aeb84111f11e2798e5#128)) =
        some 0x3243f6a8885a308d313198a2e0370734#128 ∧
      statusAfter (sequencerStep (decAt .final 0#4 0xd4bf5d30e0b452aeb84111f11e2798e5#128)) =
        some 0x0006#16 := by decide +kernel

/-! The pure functions: sections 2.1, 2.3 and 2.5. -/

theorem test_gmul :
    gmul 0x57#8 0x83#8 = 0xc1#8 ∧ gmul 0xff#8 0xff#8 = 0x13#8 ∧ gmul 0x03#8 0xf6#8 = 0x01#8 := by
  decide +kernel
theorem test_gmul_table_form :
    gmulTab 0x57#8 0x83#8 = .ok 0xc1#8 ∧ gmulTab 0x03#8 0xf6#8 = .ok 0x01#8 := by decide +kernel
theorem test_inverse : inv 0x53#8 = 0xca#8 ∧ inv 0xff#8 = 0x1c#8 ∧ inv 0x01#8 = 0x01#8 := by
  decide +kernel
theorem test_sbox : sbox 0x53#8 = 0xed#8 ∧ sinv 0xed#8 = 0x53#8 ∧ sbox 0xff#8 = 0x16#8 := by
  decide +kernel
theorem test_round_key_10_zero_key :
    roundKey 0#128 10 = 0xb4ef5bcb3e92e21123e951cf6f8f188e#128 := by decide +kernel
theorem test_cipher :
    cipher 0x00112233445566778899aabbccddeeff#128
      (keyExpansion 0x000102030405060708090a0b0c0d0e0f#128) =
        0x69c4e0d86a7b0430d8cdb78070b4c55a#128 := by decide +kernel
theorem test_invCipher :
    invCipher plain (keyExpansion testKey) = 0xcb13389c1d59c1d50d11f6b90c38ce7f#128 := by decide +kernel

/-! The host's lines (R58, R59): the example listing after R59, and literals of another width. -/

theorem test_literal_of_another_width :
    (Line.wr .cmd [1#4, 0#4, 2#4]).move = .error .wrongWidth ∧
      (Line.wr .status [1#4, 2#4]).move = .error .wrongWidth ∧
      (Line.wr .cmd [0#4, 2#4]).move = .ok (.send [0x80#8, 0x02#8]) := by decide
theorem test_refused_line_refuses_the_program :
    transcribe [.cmd .nop, .line (.wr .key [1#4]), .poll] = .error .wrongWidth := by decide
theorem test_text_of_a_program :
    assemble "LOADKEY 0x2B7e151628aed2a6abf7158809cf4f3c ; E1\nCMD ADD_ROUND_KEY, 3\nRD IDX 5".toList =
      .ok [.send (encode (.wr 0x02#5 testKey)), .send [0x80#8, 0x01#8], .send [0x80#8, 0x3A#8],
        .send [0x05#8]] := by decide
theorem test_text_of_run :
    assemble "RESET\n\nRUN DECRYPT\nRD RK10".toList =
      .ok [.reset, .send [0x80#8, 0x03#8], .poll, .send [0x1A#8]] := by decide
theorem test_text_refused :
    assemble "WR CMD, 0x102".toList = .error .wrongWidth ∧
      assemble "RUN NOP".toList = .error .notALine ∧ assemble "RD RK11".toList = .error .notALine ∧
      assemble "RD IDX 32".toList = .error .notALine := by decide
theorem test_poll_goes_on_while_busy :
    (after (step { busy with program := [.poll], order := [.host] })).map (·.program) = some [.poll] ∧
      (after (step { idleKv with program := [.poll], order := [.host] })).map (·.program) =
        some [] := by decide

/-! Witnesses: states and operands that meet the hypotheses of each statement that has some, at the
boundary values of each of its clauses. -/

theorem witness_ResetIsIdleAndHoldsNoValues :
    isRoundKeyIdx 0x10#5 = true ∧ isRoundKeyIdx 0x1A#5 = true ∧ isRoundKeyIdx 0x0F#5 = false ∧
      isRoundKeyIdx 0x1B#5 = false := by decide
theorem witness_ResetEventClearsTheBlock :
    ({ busy with order := [.host], program := [.reset] } : State).order = .host :: [] ∧
      ({ busy with order := [.host], program := [.reset] } : State).program = .reset :: [] := by decide
theorem witness_DecodeOfEncodeIsTheInstruction :
    (Instr.wr 0x00#5 0xFF#128).wf = true ∧ (Instr.wr 0x02#5 (BitVec.allOnes 128)).wf = true ∧
      (Instr.addRoundKey 15#4).wf = true ∧ (Instr.rd 0x1F#5).wf = true := by decide
theorem witness_DecodedTransactionTakesItsOwnBytes :
    decode .transaction [0x1F#8] = .ok (.rd 0x1F#5, []) ∧
      decode .transaction [0x9F#8, 0xFF#8] = .ok (.wr 0x1F#5 0xFF#128, []) := by decide
theorem witness_ReservedHeaderTouchesNoRegister :
    (0x20#8).extractLsb' 5 2 ≠ 0#2 ∧ (0x20#8).getLsbD 7 = false ∧
      (0xE2#8).extractLsb' 5 2 ≠ 0#2 ∧ (0xE2#8).getLsbD 7 = true := by decide
theorem witness_WrongWidthWritesAreRefused :
    ({ idleKv with order := [.host], program := [.send [0x81#8, 0x12#8]] } : State).order = .host :: [] ∧
      ({ idleKv with order := [.host], program := [.send [0x81#8, 0x12#8]] } : State).program =
        .send (0x81#8 :: [0x12#8]) :: [] ∧
      (0x81#8).getLsbD 7 = true ∧ [0x12#8].length ≠ payloadBytes (headerIdx 0x81#8) ∧
      [0x12#8, 0x13#8, 0x14#8].length ≠ payloadBytes (headerIdx 0x81#8) ∧
      ([] : List Byte).length ≠ payloadBytes (headerIdx 0x80#8) ∧
      (List.replicate 15 0#8).length ≠ payloadBytes (headerIdx 0x83#8) ∧
      (0x01#8).getLsbD 7 = false ∧ [0x00#8] ≠ [] := by decide
theorem witness_WrongWidthWritesAreRefused_literals :
    (List.replicate 31 0#4).length ≠ 2 * payloadBytes RegName.key.index ∧
      (List.replicate 3 0#4).length ≠ 2 * payloadBytes RegName.cmd.index ∧
      (List.replicate 32 0#4).length = 2 * payloadBytes RegName.key.index ∧
      (List.replicate 2 0#4).length = 2 * payloadBytes (RegName.idx 31#5).index ∧
      ProgramLine.loadKey [0#4] ∈ [.poll, .loadKey [0#4]] ∧
      (ProgramLine.loadKey [0#4]).moves = .error .wrongWidth := by decide
theorem witness_StepRunsTheDecodedInstruction_send :
    ({ idleKv with order := [.host], program := [.send [0x80#8, 0x00#8]] } : State).order = .host :: [] ∧
      ({ idleKv with order := [.host], program := [.send [0x80#8, 0x00#8]] } : State).program =
        .send [0x80#8, 0x00#8] :: [] ∧
      decode .transaction [0x80#8, 0x00#8] = .ok (.wr cmdIdx 0#128, []) ∧
      ({ idleKv with program := [.send [0x80#8, 0x00#8]] } : State).order = [] ∧
      ({ idleKv with program := [.send [0x80#8, 0x00#8]] } : State).busy = false := by decide
theorem witness_StepRunsTheDecodedInstruction_poll :
    ({ busy with order := [.host], program := [.poll] } : State).order = .host :: [] ∧
      ({ busy with order := [.host], program := [.poll] } : State).program = .poll :: [] ∧
      ({ busy with order := [.host], program := [.poll] } : State).busy = true ∧
      ({ idleKv with order := [.host], program := [.poll] } : State).order = .host :: [] ∧
      ({ idleKv with order := [.host], program := [.poll] } : State).busy = false ∧
      ({ idleKv with program := [.poll] } : State).order = [] := by decide
theorem witness_StepRunsTheDecodedInstruction_others :
    ({ busy with order := [.host], program := [.reset] } : State).order = .host :: [] ∧
      ({ busy with order := [.host], program := [.reset] } : State).program = .reset :: [] ∧
      ({ idleKv with program := [.reset] } : State).order = [] ∧
      ({ busy with order := [.sequencer] } : State).order = .sequencer :: [] ∧
      (busy.order = [] ∧ busy.busy = true) ∧
      (({ busy with order := [.host] } : State).order = .host :: [] ∧
        ({ busy with order := [.host] } : State).program = []) ∧
      (idleKv.program = [] ∧ idleKv.order = [] ∧ idleKv.busy = false) := by decide
theorem witness_WriteOfCmdRunsItsCommand :
    decodeCommand 0x09#8 = .ok .invMixColumns ∧ decodeCommand 0xFA#8 = .ok (.addRoundKey 15#4) := by
  decide
theorem witness_ReservedCommandByteIsIllegalOp :
    0xB ≤ (opField 0x0B#8).toNat ∧ (opField 0x10#8 ≠ 0xA#4 ∧ rndField 0x10#8 ≠ 0#4) ∧
      idleKv.busy = false ∧ busy.busy = true := by decide
theorem witness_NopClearsTheErrorCode : idleKv.busy = false ∧ busy.busy = true ∧ 1#4 ≠ 0#4 := by decide
theorem witness_ExpandBuildsTheWholeSchedule :
    idleNoKv.busy = false ∧ idleNoKv.kv = false ∧ idleKv.busy = false ∧ idleKv.kv = true ∧
      State.reset.busy = false ∧ State.reset.key.written = false ∧ busy.busy = true := by decide
theorem witness_EncryptStartsTheForwardRun :
    (idleKv.busy = false ∧ idleKv.kv = true) ∧ (idleNoKv.busy = false ∧ idleNoKv.kv = false) ∧
      busy.busy = true := by decide
theorem witness_DecryptStartsTheInverseRun :
    (idleKv.busy = false ∧ idleKv.kv = true) ∧ (State.reset.busy = false ∧ State.reset.kv = false) ∧
      busy.busy = true := by decide
theorem witness_SubBytesCommandsSubstituteEveryByte : idleNoKv.busy = false ∧ 0 < 16 ∧ 15 < 16 := by
  decide
theorem witness_ShiftRowsCommandsRotateTheRows : idleNoKv.busy = false ∧ 0 < 4 ∧ 3 < 4 := by decide
theorem witness_MixColumnsCommandsMixEachColumn :
    idleNoKv.busy = false ∧ 0 < 4 ∧ 3 < 4 ∧ 0x32#8 = wordByte (col plain 0) 0 ∧
      0x43#8 = wordByte (col plain 0) 1 ∧ 0xf6#8 = wordByte (col plain 0) 2 ∧
      0xa8#8 = wordByte (col plain 0) 3 := by decide
theorem witness_AddRoundKeyXorsTheNamedRoundKey : idleKv.busy = false ∧ idleKv.kv = true := by decide
theorem witness_AddRoundKeyIsTurnedAwayInOrder :
    busy.busy = true ∧ (idleNoKv.busy = false ∧ idleNoKv.kv = false) ∧
      (idleKv.busy = false ∧ idleKv.kv = true ∧ 10 < (11#4).toNat ∧ 10 < (15#4).toNat) := by decide
theorem witness_CmdWriteReportsTheFirstFailedCheck_next :
    ∃ t, exec (.wr cmdIdx ((0xBA#8).setWidth 128)) idleKv = .next t := ⟨_, rfl⟩
theorem witness_CmdWriteReportsTheFirstFailedCheck_clauses :
    busy.busy = true ∧ idleKv.busy = false ∧ (decodeCommand 0xFF#8).isOk = false ∧
      idleNoKv.kv = false ∧ decodeCommand 0xBA#8 = .ok (.addRoundKey 11#4) ∧ idleKv.kv = true ∧
      10 < (11#4).toNat ∧ decodeCommand 0xAA#8 = .ok (.addRoundKey 10#4) ∧ ¬ 10 < (10#4).toNat := by
  decide
theorem witness_RejectionChangesOnlyTheErrorCode :
    idleNoKv.check (decodeCommand 0x02#8) ≠ .none ∧ idleKv.check (decodeCommand 0xBA#8) ≠ .none ∧
      idleKv.check (decodeCommand 0xFF#8) ≠ .none ∧ busy.check (decodeCommand 0x00#8) ≠ .none ∧
      busy.busy = true := by decide
theorem witness_BusyBlockTakesNoWrite :
    busy.busy = true ∧ formatOf .nop = .command ∧ 0x1F#5 ≠ cmdIdx ∧ 0x1F#5 ≠ keyIdx ∧
      0x1F#5 ≠ stateIdx := by decide
theorem witness_ReadOfNoValueIsRecorded :
    State.reset.key.written = false ∧ State.reset.state.written = false ∧
      State.reset.rk[(10 : Fin 11)].written = false ∧ State.reset.busy = false ∧
      ({ State.reset with kv := true } : State).kv = true ∧
      ({ busy with state := Reg.noValue } : State).state.written = false ∧
      ({ busy with state := Reg.noValue } : State).round = BitVec.ofNat 4 0 ∧
      ({ busy with rk := Vector.replicate 11 Reg.noValue } : State).rk[(0 : Fin 11)].written = false := by
  decide
theorem witness_ReadOfNoValueIsRecorded_next :
    (∃ t, exec (.rd keyIdx) State.reset = .next t) ∧ (∃ t, exec .expand State.reset = .next t) ∧
      (∃ t, exec .subBytes State.reset = .next t) ∧
      (∃ t, exec (.addRoundKey 10#4) { State.reset with kv := true } = .next t) ∧
      (∃ t, sequencerStep { busy with state := Reg.noValue } = .next t) ∧
      (∃ t, sequencerStep { busy with rk := Vector.replicate 11 Reg.noValue } = .next t) :=
  ⟨⟨_, rfl⟩, ⟨_, rfl⟩, ⟨_, rfl⟩, ⟨_, rfl⟩, ⟨_, rfl⟩, ⟨_, rfl⟩⟩
theorem witness_RecordedModelFaultStays :
    (∃ t, step { busy with uninit := true } = .next t) ∧
      (∃ t, exec .expand State.reset = .next t ∧ t.uninit ≠ State.reset.uninit) ∧
      (∃ t, sequencerStep { busy with state := Reg.noValue } = .next t ∧ t.uninit ≠ busy.uninit) ∧
      (∃ t, step { State.reset with program := [.send [0x02#8]] } = .next t ∧
        t.uninit ≠ State.reset.uninit) :=
  ⟨⟨_, rfl⟩, ⟨_, rfl, by decide⟩, ⟨_, rfl, by decide⟩, ⟨_, rfl, by decide⟩⟩
theorem witness_ReadGivesTheRegistersPayload :
    isReservedIdx 0x04#5 = true ∧ isReservedIdx 0x0F#5 = true ∧ isReservedIdx 0x1B#5 = true ∧
      isReservedIdx 0x1F#5 = true ∧ isReservedIdx 0x03#5 = false ∧ isReservedIdx 0x10#5 = false ∧
      isReservedIdx 0x1A#5 = false := by decide
theorem witness_KeyWriteSetsKeyAndClearsKv : idleKv.busy = false ∧ busy.busy = true := by decide
theorem witness_StateWriteSetsStateOnly : idleNoKv.busy = false ∧ busy.busy = true := by decide
theorem witness_OtherWritesAreIgnored :
    0x01#5 = statusIdx ∧ isRoundKeyIdx 0x10#5 = true ∧ isRoundKeyIdx 0x1A#5 = true ∧
      isReservedIdx 0x04#5 = true ∧ isReservedIdx 0x1F#5 = true := by decide
theorem witness_ReadFrame : ∃ t, exec (.rd 0x1A#5) busy = .next t := ⟨_, rfl⟩
theorem witness_TransformCommandFrame :
    (∃ t, exec .nop idleKv = .next t) ∧ (∃ t, exec .invMixColumns idleKv = .next t) ∧
      (∃ t, exec (.addRoundKey 10#4) idleKv = .next t) := ⟨⟨_, rfl⟩, ⟨_, rfl⟩, ⟨_, rfl⟩⟩
theorem witness_ExpandFrame : ∃ t, exec .expand idleNoKv = .next t := ⟨_, rfl⟩
theorem witness_RunStartFrame :
    (∃ t, exec .encrypt idleKv = .next t) ∧ (∃ t, exec .decrypt idleKv = .next t) :=
  ⟨⟨_, rfl⟩, ⟨_, rfl⟩⟩
theorem witness_RegisterWriteFrame :
    keyIdx ≠ cmdIdx ∧ stateIdx ≠ cmdIdx ∧ 0x1F#5 ≠ keyIdx ∧ 0x1F#5 ≠ stateIdx ∧
      ∃ t, exec (.wr keyIdx 0#128) idleKv = .next t :=
  ⟨by decide, by decide, by decide, by decide, _, rfl⟩
theorem witness_OnlyExpandWritesTheRoundKeys :
    ∃ t, exec .expand idleNoKv = .next t ∧ t.rk ≠ idleNoKv.rk :=
  ⟨_, rfl, fun h => absurd (congrArg (fun r : Vector Reg 11 => r[0].written) h) (by decide)⟩
theorem witness_OnlyAKeyWriteWritesKey :
    ∃ t, exec (.wr keyIdx 0#128) idleKv = .next t ∧ t.key ≠ idleKv.key := ⟨_, rfl, by decide⟩
theorem witness_OnlyCommandsAndRejectionsWriteEcode :
    ∃ t, exec (.wr stateIdx 0#128) busy = .next t ∧ t.ecode ≠ busy.ecode := ⟨_, rfl, by decide⟩
theorem witness_EncryptStepsAreTheForwardRounds :
    busy.busy = true ∧ busy.dir = .encrypt ∧ busy.phase = .init ∧ busy.round = 0#4 ∧
      (encAt .rnd 1#4 plain).phase = .rnd ∧ (encAt .rnd 1#4 plain).round = BitVec.ofNat 4 1 ∧
      (encAt .rnd 9#4 plain).round = BitVec.ofNat 4 9 ∧ (encAt .final 10#4 plain).phase = .final ∧
      (encAt .final 10#4 plain).round = 10#4 := by decide
theorem witness_DecryptStepsAreTheInverseRounds :
    (decAt .init 10#4 plain).busy = true ∧ (decAt .init 10#4 plain).dir = .decrypt ∧
      (decAt .init 10#4 plain).phase = .init ∧ (decAt .init 10#4 plain).round = 10#4 ∧
      (decAt .rnd 1#4 plain).phase = .rnd ∧ (decAt .rnd 1#4 plain).round = BitVec.ofNat 4 1 ∧
      (decAt .rnd 9#4 plain).round = BitVec.ofNat 4 9 ∧ (decAt .final 0#4 plain).phase = .final ∧
      (decAt .final 0#4 plain).round = 0#4 := by decide
theorem witness_SequencerStepsExactlyInItsTable :
    idleKv.busy = false ∧ busy.busy = true ∧ runPosition busy.phase busy.dir busy.round = true ∧
      runPosition .init .encrypt 1#4 = false ∧ runPosition .rnd .encrypt 0#4 = false ∧
      runPosition .rnd .decrypt 10#4 = false ∧ runPosition .final .decrypt 0#4 = true := by decide
theorem witness_SequencerFrame :
    (∃ t, sequencerStep busy = .next t) ∧ ∃ t, sequencerStep idleKv = .next t := ⟨⟨_, rfl⟩, ⟨_, rfl⟩⟩
theorem witness_ElevenEncryptStepsComputeCipher :
    ∃ s : State, s.busy = true ∧ s.phase = .init ∧ s.dir = .encrypt ∧ s.round = 0#4 ∧
      s.order = List.replicate 11 .sequencer ++ [.host] ∧ s.state = Reg.of plain ∧
      ∀ i : Fin 11, s.rk[i] = Reg.of (keyExpansion testKey)[i] := by
  refine ⟨{ busy with order := List.replicate 11 .sequencer ++ [.host] },
    rfl, rfl, rfl, rfl, rfl, rfl, fun i => ?_⟩
  simp [busy, idleKv, scheduleRegs]
theorem witness_ElevenDecryptStepsComputeInvCipher :
    ∃ s : State, s.busy = true ∧ s.phase = .init ∧ s.dir = .decrypt ∧ s.round = 10#4 ∧
      s.order = List.replicate 11 .sequencer ++ [.host] ∧ s.state = Reg.of plain ∧
      ∀ i : Fin 11, s.rk[i] = Reg.of (keyExpansion testKey)[i] := by
  refine ⟨{ decAt .init 10#4 plain with order := List.replicate 11 .sequencer ++ [.host] },
    rfl, rfl, rfl, rfl, rfl, rfl, fun i => ?_⟩
  simp [decAt, encAt, busy, idleKv, scheduleRegs]

/-- The invariants at a running state, for the statements about every step and every run. -/
theorem witness_busy_meets_the_invariants : busy.Inv :=
  ⟨by decide, by decide, fun _ => ⟨rfl, .inl rfl⟩, fun _ => rfl⟩
theorem witness_EveryRunEndsWithinElevenSteps :
    (busy.Inv ∧ busy.busy = true ∧ busy.order = [] ∧ busy.program = []) ∧
      ({ busy with program := [.poll] } : State).Inv ∧
      ({ busy with program := [.poll] } : State).program = .poll :: [] :=
  ⟨⟨witness_busy_meets_the_invariants, rfl, rfl, rfl⟩, witness_busy_meets_the_invariants, rfl⟩
theorem witness_EveryStepKeepsTheInvariants : busy.Inv ∧ ∃ t, step busy = .next t :=
  ⟨witness_busy_meets_the_invariants, _, rfl⟩
theorem witness_RunKeepsKeyScheduleAndDirection :
    busy.busy = true ∧ ¬ busy.ResetNext ∧ ∃ t, step busy = .next t :=
  ⟨rfl, by decide, _, rfl⟩
theorem witness_OnlyAcceptedRunsMoveThePosition :
    ∃ t, exec .decrypt idleKv = .next t ∧ (t.phase ≠ idleKv.phase ∨ t.round ≠ idleKv.round ∨
      t.dir ≠ idleKv.dir ∨ t.busy ≠ idleKv.busy) := ⟨_, rfl, by decide⟩
theorem witness_FieldTablesAreWhatTheirRulesSay :
    0xFE#8 ≠ 255#8 ∧ 0x01#8 ≠ 0#8 ∧ 8 < 9 ∧
      0x0E#8 ∈ [0x02#8, 0x03#8, 0x09#8, 0x0B#8, 0x0D#8, 0x0E#8] := by decide
theorem witness_ShiftRowsMovesBytesByItsTable : 0 < 16 ∧ 15 < 16 := by decide
theorem witness_KeyScheduleIsTheChainOfRoundWords :
    0 < 3 ∧ 2 < 3 ∧ 3 < 4 ∧
      0x000102030405060708090a0b0c0d0e0f#128 =
        (keyExpansion 0x000102030405060708090a0b0c0d0e0f#128)[(0 : Fin 11)] ∧
      0xd6aa74fdd2af72fadaa678f1d6ab76fe#128 =
        (keyExpansion 0x000102030405060708090a0b0c0d0e0f#128)[(1 : Fin 11)] := by decide +kernel

end Sys2Proof.Tests
end

/-! PROOF. The record of UNINIT (R11, R140): what each kind of event adds to `State.uninit`. -/

namespace Sys2Proof.Machine

/-! The registers an index, an operand or ROUND names. -/

@[simp] theorem State.regRead_keyIdx (s : State) : s.regRead keyIdx = s.key := rfl
@[simp] theorem State.regRead_stateIdx (s : State) : s.regRead stateIdx = s.state := rfl

/-- A round-key index reads the round key its low four bits name (R53, R120). -/
theorem State.regRead_of_isRoundKeyIdx (s : State) (idx : BitVec 5) (h : isRoundKeyIdx idx = true) :
    s.regRead idx = s.roundKeyReg ((idx - 0x10#5).setWidth 4) := by
  have away : idx ≠ cmdIdx ∧ idx ≠ statusIdx ∧ idx ≠ keyIdx ∧ idx ≠ stateIdx := by
    refine ⟨?_, ?_, ?_, ?_⟩ <;> rintro rfl <;> exact absurd h (by decide)
  obtain ⟨hcmd, hstatus, hkey, hstate⟩ := away
  simp [State.regRead, hcmd, hstatus, hkey, hstate, h]

/-- The operand that counts to `i` names `RK[i]` (R53). -/
@[simp] theorem State.roundKeyReg_ofNat (s : State) (i : Fin 11) :
    s.roundKeyReg (BitVec.ofNat 4 i) = s.rk[i] := by
  have hi : (BitVec.ofNat 4 i).toNat = i := by
    rw [BitVec.toNat_ofNat, Nat.mod_eq_of_lt (by omega)]
  simp [State.roundKeyReg, hi]

/-- The index of `RK[i]` reads `RK[i]` (R35, R120). -/
@[simp] theorem State.regRead_rkIdx (s : State) (i : Fin 11) : s.regRead (rkIdx i) = s.rk[i] := by
  have hidx : ∀ j : Fin 11, isRoundKeyIdx (rkIdx j) = true ∧
      (rkIdx j - 0x10#5).setWidth 4 = BitVec.ofNat 4 j := by decide
  obtain ⟨hrk, hlow⟩ := hidx i
  rw [s.regRead_of_isRoundKeyIdx _ hrk, hlow, s.roundKeyReg_ofNat]

/-! The record after each kind of event. -/

/-- A command is accepted exactly while idle, with the schedule it needs and a round key its operand
names (R129). -/
theorem State.check_ok_eq_none_iff (s : State) (i : Instr) :
    s.check (.ok i) = .none ↔
      s.busy = false ∧ (needsSchedule i = true → s.kv = true) ∧ namesNoRoundKey i = false := by
  cases hb : s.busy
  case true => simp [s.check_busy _ hb]
  case false =>
    rw [s.check_ok i hb]
    cases needsSchedule i <;> cases s.kv <;> cases namesNoRoundKey i <;> decide

/-- RD records UNINIT for the register it gives back (R115). -/
theorem uninit_of_exec_rd (idx : BitVec 5) (s t : State) (h : exec (.rd idx) s = .next t) :
    t.uninit = (s.uninit || !(s.regRead idx).written) := by
  cases h
  rfl

/-- An accepted command records UNINIT for the registers it reads, and for no other. -/
theorem uninit_of_exec_accepted (i : Instr) (s t : State) (hf : formatOf i = .command)
    (hc : s.check (.ok i) = .none) (h : exec i s = .next t) :
    t.uninit = (s.uninit || (commandReads i s).any fun r => !r.written) := by
  cases i
  case rd | wr => cases hf
  all_goals
    cases h
    rw [s.issue_of_accepted _ _ hc]
    simp [commandReads, Bool.or_assoc]

/-- An accepted command that reads a register without a value records UNINIT. -/
theorem uninit_of_exec_accepted_of_mem (i : Instr) (s t : State) (r : Reg)
    (hf : formatOf i = .command) (hc : s.check (.ok i) = .none) (hr : r ∈ commandReads i s)
    (hw : r.written = false) (h : exec i s = .next t) : t.uninit = true := by
  have hany : ((commandReads i s).any fun r => !r.written) = true :=
    List.any_eq_true.2 ⟨r, hr, by simp [hw]⟩
  rw [uninit_of_exec_accepted i s t hf hc h, hany, Bool.or_true]

@[simp] theorem encRoundStep_uninit (s : State) :
    (encRoundStep s).uninit = (s.mapStateWithKey encRound s.round).uninit := by
  unfold encRoundStep
  split <;> rfl

@[simp] theorem decRoundStep_uninit (s : State) :
    (decRoundStep s).uninit = (s.mapStateWithKey decRound s.round).uninit := by
  unfold decRoundStep
  split <;> rfl

/-- Every sequencer step of a run reads STATE and `RK[ROUND]`, and records UNINIT for them (R103 to
R108). -/
theorem uninit_of_sequencerStep (s t : State) (hb : s.busy = true) (h : sequencerStep s = .next t) :
    t.uninit = (s.uninit || !s.state.written || !(s.roundKeyReg s.round).written) := by
  obtain ⟨hidle, -⟩ | ⟨-, -, -, -, rfl⟩ | ⟨-, -, -, -, rfl⟩ | ⟨-, -, -, -, rfl⟩ |
    ⟨-, -, -, -, rfl⟩ | ⟨-, -, -, -, rfl⟩ | ⟨-, -, -, -, rfl⟩ := sequencerStep_cases s t h
  case inl => simp [hb] at hidle
  all_goals simp [encInitialStep, encFinalStep, decInitialStep, decFinalStep]

/-! The readers of STATE alone: the six transform commands. -/

/-- A transform command needs no schedule, names no round key and reads STATE (R77, R78, R93 to
R96). -/
theorem transform_reads_state (i : Instr) (s : State)
    (hi : i ∈ [.subBytes, .invSubBytes, .shiftRows, .invShiftRows, .mixColumns, .invMixColumns]) :
    formatOf i = .command ∧ needsSchedule i = false ∧ namesNoRoundKey i = false ∧
      commandReads i s = [s.state] := by
  simp only [List.mem_cons, List.not_mem_nil, or_false] at hi
  obtain rfl | rfl | rfl | rfl | rfl | rfl := hi <;> exact ⟨rfl, rfl, rfl, rfl⟩

/-- ADD_ROUND_KEY with an operand in 0..10 names a round key (R53). -/
theorem namesNoRoundKey_addRoundKey_ofNat (n : Fin 11) :
    namesNoRoundKey (.addRoundKey (BitVec.ofNat 4 n)) = false := by
  revert n
  decide

/-- Settles O26: each kind of event records UNINIT for exactly the registers it reads (the
`uninit_of_…` lemmas), and the register without a value is one of them. -/
theorem readOfNoValueIsRecorded : Obligations.ReadOfNoValueIsRecorded := by
  unfold Obligations.ReadOfNoValueIsRecorded
  intro s t
  refine ⟨?key, ?state, ?roundKey, ?expand, ?transform, ?addRoundKey, ?sequencer⟩
  case key =>
    intro hw h
    simp [uninit_of_exec_rd _ s t h, hw]
  case state =>
    intro hw h
    simp [uninit_of_exec_rd _ s t h, hw]
  case roundKey =>
    intro i hw h
    rw [uninit_of_exec_rd _ s t h, s.regRead_rkIdx, hw, Bool.not_false, Bool.or_true]
  case expand =>
    intro hb hw h
    have hc : s.check (.ok .expand) = .none :=
      (s.check_ok_eq_none_iff _).2 ⟨hb, nofun, rfl⟩
    exact uninit_of_exec_accepted_of_mem _ s t s.key rfl hc (List.mem_singleton.2 rfl) hw h
  case transform =>
    intro i hi hb hw h
    obtain ⟨hf, hsched, hname, hreads⟩ := transform_reads_state i s hi
    have hc : s.check (.ok i) = .none :=
      (s.check_ok_eq_none_iff i).2 ⟨hb, by simp [hsched], hname⟩
    exact uninit_of_exec_accepted_of_mem i s t s.state hf hc (by simp [hreads]) hw h
  case addRoundKey =>
    intro n hb hkv hw h
    have hc : s.check (.ok (.addRoundKey (BitVec.ofNat 4 n))) = .none :=
      (s.check_ok_eq_none_iff _).2 ⟨hb, fun _ => hkv, namesNoRoundKey_addRoundKey_ofNat n⟩
    have hreads : commandReads (.addRoundKey (BitVec.ofNat 4 n)) s = [s.state, s.rk[n]] := by
      rw [← s.roundKeyReg_ofNat n]
      rfl
    obtain hstate | hrk := hw
    · exact uninit_of_exec_accepted_of_mem _ s t s.state rfl hc (by simp [hreads]) hstate h
    · exact uninit_of_exec_accepted_of_mem _ s t s.rk[n] rfl hc (by simp [hreads]) hrk h
  case sequencer =>
    intro n hb hround hw h
    rw [uninit_of_sequencerStep s t hb h, hround, s.roundKeyReg_ofNat]
    obtain hstate | hrk := hw
    · rw [hstate, Bool.not_false, Bool.or_true, Bool.true_or]
    · rw [hrk, Bool.not_false, Bool.or_true]

end Sys2Proof.Machine

/-! PROOF. The state (10_state.md): what an instruction, a sequencer step and a whole step can do to KEY,
the schedule and the sequencer's position, and what follows for the invariants. -/

namespace Sys2Proof.Machine

/-! An instruction's effect on KEY, the schedule and the run. -/

/-- `i` is the command `j`, or a write of CMD with a byte of `j` (R52). -/
def Carries (i j : Instr) : Prop :=
  i = j ∨ ∃ v : Block, i = .wr cmdIdx v ∧ decodeCommand (v.setWidth 8) = .ok j

/-- The command that starts a run in a direction (R21). -/
def startCommand : Dir → Instr
  | .encrypt => .encrypt
  | .decrypt => .decrypt

/-- ROUND at the start of a run in a direction (R113, R114). -/
def firstRound : Dir → BitVec 4
  | .encrypt => 0#4
  | .decrypt => 10#4

/-- What an instruction can do to KEY, the schedule and the run, from `s` to a next state. -/
inductive ExecEffect (i : Instr) (s : State) : State → Prop
  /-- Neither KEY and the schedule nor the run changes, and a recorded model fault stays. -/
  | kept {t : State} (key : s.SameKey t) (run : s.SameRun t)
      (fault : s.uninit = true → t.uninit = true) : ExecEffect i s t
  /-- A write of KEY while idle (R124). -/
  | keyWritten (v : Block) (hi : i = .wr keyIdx v) (idle : s.busy = false) :
      ExecEffect i s (s.writeKey v)
  /-- An accepted EXPAND (R85). -/
  | expanded (hi : Carries i .expand) (idle : s.busy = false) :
      ExecEffect i s (((s.setECode .none).noteRead s.key).writeSchedule s.key.value)
  /-- An accepted ENCRYPT or DECRYPT (R113, R114). -/
  | runStarted (d : Dir) (hi : Carries i (startCommand d)) (idle : s.busy = false)
      (schedule : s.kv = true) : ExecEffect i s ((s.setECode .none).startRun d (firstRound d))

/-- A write of ECODE keeps KEY, the schedule and the run. -/
theorem ExecEffect.setECode {i : Instr} {s : State} {e : ECode} : ExecEffect i s (s.setECode e) :=
  .kept ⟨rfl, rfl, rfl⟩ ⟨rfl, rfl, rfl, rfl⟩ id

/-- A rejected command keeps KEY, the schedule and the run, so the accepted one alone decides. -/
theorem ExecEffect.issue {i : Instr} {s : State} {cmd : Except DecodeError Instr}
    {effect : State → State}
    (accepted : s.check cmd = .none → ExecEffect i s (effect (s.setECode .none))) :
    ExecEffect i s (s.issue cmd effect) := by
  obtain ⟨hc, heq⟩ | ⟨-, heq⟩ := s.issue_cases cmd effect
  · exact heq ▸ accepted hc
  · exact heq ▸ .setECode

/-- A write of KEY or STATE that is rejected keeps them too. -/
theorem ExecEffect.whenIdle {i : Instr} {s : State} {effect : State → State}
    (accepted : s.busy = false → ExecEffect i s (effect s)) :
    ExecEffect i s (s.whenIdle effect) := by
  obtain ⟨hb, heq⟩ | ⟨-, heq⟩ := s.whenIdle_cases effect
  · exact heq ▸ accepted hb
  · exact heq ▸ .setECode

/-- The effect of ENCRYPT or DECRYPT: an accepted one finds the block idle, with a schedule (R129). -/
theorem ExecEffect.startRun {i : Instr} {s : State} (d : Dir) (hi : Carries i (startCommand d)) :
    ExecEffect i s (s.issue (.ok (startCommand d)) fun t => t.startRun d (firstRound d)) :=
  .issue fun hc => by
    obtain ⟨hb, hkv, -⟩ := (s.check_ok_eq_none_iff _).1 hc
    exact .runStarted d hi hb (hkv (by cases d <;> rfl))

/-- The effect of a command, whether given as itself or in a write of CMD. -/
theorem ExecEffect.of_command {i j : Instr} {s t : State} (hj : formatOf j = .command)
    (hi : Carries i j) (h : exec j s = .next t) : ExecEffect i s t := by
  cases j
  case rd | wr => cases hj
  case expand =>
    cases h
    exact .issue fun hc => .expanded hi ((s.check_ok_eq_none_iff _).1 hc).1
  case encrypt =>
    cases h
    exact .startRun .encrypt hi
  case decrypt =>
    cases h
    exact .startRun .decrypt hi
  case nop =>
    cases h
    exact .issue fun _ => .setECode
  all_goals
    cases h
    exact .issue fun _ => .kept ⟨rfl, rfl, rfl⟩ ⟨rfl, rfl, rfl, rfl⟩ fun hu => by simp [hu]

/-- A decoded command byte runs its command (R123). -/
theorem executeCommand_eq_exec (j : Instr) (s : State) (hj : formatOf j = .command) :
    executeCommand j s = exec j s := by
  cases j
  case rd | wr => cases hj
  all_goals rfl

/-- The effect of a write of CMD: that of the command its byte decodes to (R123, R56). -/
theorem ExecEffect.of_writeCmd {v : Block} {s t : State}
    (h : writeCmd (v.setWidth 8) s = .next t) : ExecEffect (.wr cmdIdx v) s t := by
  unfold writeCmd at h
  split at h
  case h_1 j hd =>
    have hj : formatOf j = .command := decodeCommand_isCommand _ _ hd
    rw [executeCommand_eq_exec j s hj] at h
    exact .of_command hj (.inr ⟨v, rfl, hd⟩) h
  case h_2 =>
    cases h
    exact .issue fun _ => .setECode

/-- The effect of a write of any index (R122). -/
theorem ExecEffect.of_execWr {idx : BitVec 5} {v : Block} {s t : State}
    (h : execWr idx v s = .next t) : ExecEffect (.wr idx v) s t := by
  unfold execWr at h
  split at h
  case isTrue hidx => exact hidx ▸ .of_writeCmd h
  split at h
  case isTrue hidx =>
    cases h
    exact .whenIdle fun hb => .keyWritten v (hidx ▸ rfl) hb
  split at h
  case isTrue =>
    cases h
    exact .whenIdle fun _ => .kept ⟨rfl, rfl, rfl⟩ ⟨rfl, rfl, rfl, rfl⟩ id
  case isFalse =>
    cases h
    exact .kept ⟨rfl, rfl, rfl⟩ ⟨rfl, rfl, rfl, rfl⟩ id

/-- Everything an instruction can do to KEY, the schedule and the run. -/
theorem exec_effect (i : Instr) (s t : State) (h : exec i s = .next t) : ExecEffect i s t := by
  cases i
  case rd =>
    cases h
    exact .kept ⟨rfl, rfl, rfl⟩ ⟨rfl, rfl, rfl, rfl⟩ fun hu => by simp [hu]
  case wr => exact .of_execWr h
  all_goals exact .of_command rfl (.inl rfl) h

/-! A sequencer step while BUSY. -/

/-- What a step of a run can do: STATE through a round with `RK[ROUND]`, and then a next position of the
table of R101, or the end of the run. -/
inductive RunStep (s : State) : State → Prop
  | moved (f : Block → Block → Block) (p : Phase) (r : BitVec 4)
      (legal : runPosition p s.dir r = true) :
      RunStep s ((s.mapStateWithKey f s.round).setPosition p r)
  | ended (f : Block → Block → Block) (hr : s.round.toNat ≤ 10) :
      RunStep s (s.mapStateWithKey f s.round).endRun

/-- An encrypt round below 9 goes on to a middle round (R104). -/
theorem isMiddleRound_add_one (r : BitVec 4) (h : isMiddleRound r = true) (h9 : r ≠ 9#4) :
    isMiddleRound (r + 1#4) = true := by
  revert r
  decide

/-- A decrypt round above 1 goes on to a middle round (R107). -/
theorem isMiddleRound_sub_one (r : BitVec 4) (h : isMiddleRound r = true) (h1 : r ≠ 1#4) :
    isMiddleRound (r - 1#4) = true := by
  revert r
  decide

/-- Everything the sequencer's turn can do, by the position it leaves (R101, R103 to R108). -/
theorem sequencerStep_runStep (s t : State) (h : sequencerStep s = .next t) :
    (s.busy = false ∧ t = s) ∨ (s.busy = true ∧ RunStep s t) := by
  obtain hidle | ⟨hb, -, hd, -, rfl⟩ | ⟨hb, -, hd, hr, rfl⟩ | ⟨hb, -, -, hr, rfl⟩ |
    ⟨hb, -, hd, -, rfl⟩ | ⟨hb, -, hd, hr, rfl⟩ | ⟨hb, -, -, hr, rfl⟩ := sequencerStep_cases s t h
  · exact .inl hidle
  · exact .inr ⟨hb, .moved _ _ _ (by rw [hd]; rfl)⟩
  · refine .inr ⟨hb, ?_⟩
    unfold encRoundStep
    split
    next => exact .moved _ _ _ (by rw [hd]; rfl)
    next h9 => exact .moved _ _ _ (by rw [hd]; exact isMiddleRound_add_one _ hr h9)
  · exact .inr ⟨hb, .ended _ (by rw [hr]; decide)⟩
  · exact .inr ⟨hb, .moved _ _ _ (by rw [hd]; rfl)⟩
  · refine .inr ⟨hb, ?_⟩
    unfold decRoundStep
    split
    next => exact .moved _ _ _ (by rw [hd]; rfl)
    next h1 => exact .moved _ _ _ (by rw [hd]; exact isMiddleRound_sub_one _ hr h1)
  · exact .inr ⟨hb, .ended _ (by rw [hr]; decide)⟩

/-- No sequencer step writes KEY, a round key, KV or DIR (R101, R30). -/
theorem sequencerStep_sameKey (s t : State) (h : sequencerStep s = .next t) :
    s.SameKey t ∧ t.dir = s.dir := by
  obtain ⟨-, rfl⟩ | ⟨-, hrun⟩ := sequencerStep_runStep s t h
  · exact ⟨⟨rfl, rfl, rfl⟩, rfl⟩
  · cases hrun <;> exact ⟨⟨rfl, rfl, rfl⟩, rfl⟩

/-! A whole step. -/

/-- Everything a step can do, its turn and the host's move taken off: nothing, an instruction, a sequencer
step, or the reset input (R43, R152). -/
theorem step_event (s t : State) (h : step s = .next t) :
    ∃ es ms, let u : State := { s with order := es, program := ms }
      t = u ∨ (∃ i, exec i u = .next t) ∨ sequencerStep u = .next t ∨
        (s.ResetNext ∧ t = u.resetBlock) := by
  obtain ⟨es, hes⟩ := takeTurn_state s
  obtain ⟨hturn, hhost⟩ | ⟨-, hseq⟩ := step_cases s t h
  · rw [hes] at hhost
    obtain ⟨-, rfl⟩ | ⟨-, ms, i, -, -, hexec⟩ | ⟨ms, -, hpoll⟩ | ⟨ms, hp, rfl⟩ :=
      hostTurn_cases _ t hhost
    · exact ⟨es, s.program, .inl rfl⟩
    · exact ⟨es, ms, .inr (.inl ⟨i, hexec⟩)⟩
    · rw [pollTurn_eq] at hpoll
      split at hpoll
      · exact ⟨es, s.program, .inr (.inl ⟨_, hpoll⟩)⟩
      · exact ⟨es, ms, .inr (.inl ⟨_, hpoll⟩)⟩
    · exact ⟨es, ms, .inr (.inr (.inr ⟨⟨hturn, congrArg List.head? hp⟩, rfl⟩))⟩
  · rw [hes] at hseq
    exact ⟨es, s.program, .inr (.inr (.inl hseq))⟩

/-! The invariants. -/

/-- Reset meets the invariants, whatever the host has to do (R27 to R29). -/
theorem State.resetBlock_inv (s : State) : s.resetBlock.Inv :=
  ⟨by simp [State.BusyIffRunning], .inl ⟨rfl, by simp⟩, nofun, nofun⟩

/-- A position of R101's table is not IDLE (R27). -/
theorem runPosition_ne_idle (p : Phase) (d : Dir) (r : BitVec 4) (h : runPosition p d r = true) :
    p ≠ .idle := by
  rintro rfl
  cases d <;> cases h

/-- What keeps KEY, the schedule and the record of faults keeps the schedule valid (R29). -/
theorem scheduleValid_of_sameKey {s t : State} (hs : s.ScheduleValid) (key : s.SameKey t)
    (fault : s.uninit = true → t.uninit = true) : t.ScheduleValid := by
  obtain ⟨hk, hrk, hkv⟩ := key
  intro h
  obtain ⟨hval, hwritten⟩ := hs (hkv ▸ h)
  rw [hrk, hk]
  exact ⟨hval, hwritten.imp_right fault⟩

/-- What keeps KEY, the schedule, the run and the record of faults keeps the invariants. -/
theorem State.Inv.of_kept {s t : State} (hs : s.Inv) (key : s.SameKey t) (run : s.SameRun t)
    (fault : s.uninit = true → t.uninit = true) : t.Inv := by
  obtain ⟨hbusy, hpos, hsched, hrun⟩ := hs
  have ⟨_, _, hkv⟩ := key
  obtain ⟨hb, hp, hr, hd⟩ := run
  refine ⟨?busy, ?position, scheduleValid_of_sameKey hsched key fault, ?run⟩
  case busy => rwa [State.BusyIffRunning, hb, hp]
  case position => rwa [State.LegalPosition, hp, hr, hd]
  case run => rwa [State.RunHasSchedule, hb, hkv]

/-- An instruction keeps the invariants. -/
theorem exec_keeps_inv (i : Instr) (s t : State) (h : exec i s = .next t) (hs : s.Inv) : t.Inv := by
  have ⟨hbusy, hpos, hsched, _⟩ := hs
  cases exec_effect i s t h with
  | kept key run fault => exact hs.of_kept key run fault
  | keyWritten v _ idle => exact ⟨hbusy, hpos, nofun, by simp [State.RunHasSchedule, idle]⟩
  | expanded _ idle =>
    refine ⟨hbusy, hpos, fun _ => ⟨rfl, ?_⟩, fun _ => rfl⟩
    cases hw : s.key.written <;> simp [hw]
  | runStarted d _ _ schedule =>
    exact ⟨by simp [State.BusyIffRunning], .inr (by cases d <;> rfl), hsched, fun _ => schedule⟩

/-- A sequencer step keeps the invariants. -/
theorem sequencerStep_keeps_inv (s t : State) (h : sequencerStep s = .next t) (hs : s.Inv) :
    t.Inv := by
  obtain ⟨-, rfl⟩ | ⟨hb, hstep⟩ := sequencerStep_runStep s t h
  · exact hs
  obtain ⟨-, -, hsched, hrun⟩ := hs
  have hschedule : t.ScheduleValid := by
    obtain ⟨hkey, -⟩ := sequencerStep_sameKey s t h
    exact scheduleValid_of_sameKey hsched hkey fun hu => by
      simp [uninit_of_sequencerStep s t hb h, hu]
  cases hstep with
  | moved f p r legal =>
    have hp := runPosition_ne_idle p s.dir r legal
    exact ⟨by simp [State.BusyIffRunning, hb, hp], .inr legal, hschedule, fun _ => hrun hb⟩
  | ended f hr => exact ⟨by simp [State.BusyIffRunning], .inl ⟨rfl, hr⟩, hschedule, nofun⟩

/-- Settles O51: the invariants do not speak of the host's side, and each kind of event keeps them. -/
theorem everyStepKeepsTheInvariants : Obligations.EveryStepKeepsTheInvariants := by
  unfold Obligations.EveryStepKeepsTheInvariants
  intro s t hs h
  obtain ⟨es, ms, rfl | ⟨i, hexec⟩ | hseq | ⟨-, rfl⟩⟩ := step_event s t h
  · exact hs
  · exact exec_keeps_inv i _ t hexec hs
  · exact sequencerStep_keeps_inv _ t hseq hs
  · exact State.resetBlock_inv _

/-- Settles O50: the state after reset is what the reset event leaves. -/
theorem resetMeetsTheInvariants : Obligations.ResetMeetsTheInvariants := by
  unfold Obligations.ResetMeetsTheInvariants
  exact State.reset.resetBlock_inv

/-! Who writes KEY, the round keys and the position. -/

/-- Settles O39: of an instruction's effects only EXPAND's differs in the round keys. -/
theorem onlyExpandWritesTheRoundKeys : Obligations.OnlyExpandWritesTheRoundKeys := by
  unfold Obligations.OnlyExpandWritesTheRoundKeys
  constructor
  · intro i s t h hne
    cases exec_effect i s t h with
    | kept key =>
      obtain ⟨-, hrk, -⟩ := key
      exact absurd hrk hne
    | keyWritten => exact absurd rfl hne
    | expanded hi => exact hi
    | runStarted => exact absurd rfl hne
  · intro s t h
    obtain ⟨⟨-, hrk, -⟩, -⟩ := sequencerStep_sameKey s t h
    exact hrk

/-- Settles O40: of an instruction's effects only a write of KEY differs in KEY. -/
theorem onlyAKeyWriteWritesKey : Obligations.OnlyAKeyWriteWritesKey := by
  unfold Obligations.OnlyAKeyWriteWritesKey
  constructor
  · intro i s t h hne
    cases exec_effect i s t h with
    | kept key =>
      obtain ⟨hkey, -, -⟩ := key
      exact absurd hkey hne
    | keyWritten v hi => exact ⟨v, hi⟩
    | expanded => exact absurd rfl hne
    | runStarted => exact absurd rfl hne
  · intro s t h
    obtain ⟨⟨hkey, -, -⟩, -⟩ := sequencerStep_sameKey s t h
    exact hkey

/-- While BUSY an instruction keeps KEY, the schedule and the run: every other effect needs an idle
block (R132). -/
theorem exec_kept_of_busy (i : Instr) (s t : State) (h : exec i s = .next t) (hb : s.busy = true) :
    s.SameKey t ∧ s.SameRun t := by
  cases exec_effect i s t h with
  | kept key run => exact ⟨key, run⟩
  | keyWritten _ _ idle | expanded _ idle | runStarted _ _ idle _ => simp [hb] at idle

/-- Settles O52: while BUSY neither an instruction nor a sequencer step changes them. -/
theorem runKeepsKeyScheduleAndDirection : Obligations.RunKeepsKeyScheduleAndDirection := by
  unfold Obligations.RunKeepsKeyScheduleAndDirection
  intro s t hb hreset h
  obtain ⟨es, ms, rfl | ⟨i, hexec⟩ | hseq | ⟨hnext, -⟩⟩ := step_event s t h
  · exact ⟨rfl, rfl, rfl, rfl⟩
  · obtain ⟨⟨hkey, hrk, hkv⟩, -, -, -, hdir⟩ := exec_kept_of_busy i _ t hexec hb
    exact ⟨hkey, hrk, hkv, hdir⟩
  · obtain ⟨⟨hkey, hrk, hkv⟩, hdir⟩ := sequencerStep_sameKey _ t hseq
    exact ⟨hkey, hrk, hkv, hdir⟩
  · exact absurd hnext hreset

/-- Settles O53: of an instruction's effects only the start of a run moves the position. -/
theorem onlyAcceptedRunsMoveThePosition : Obligations.OnlyAcceptedRunsMoveThePosition := by
  unfold Obligations.OnlyAcceptedRunsMoveThePosition
  intro i s t h hmoved
  cases exec_effect i s t h with
  | kept _ run =>
    obtain ⟨hb, hp, hr, hd⟩ := run
    simp [hb, hp, hr, hd] at hmoved
  | keyWritten => simp at hmoved
  | expanded => simp at hmoved
  | runStarted d hi idle schedule =>
    exact ⟨idle, schedule, rfl, startCommand d, by cases d <;> simp [startCommand], hi⟩

/-! Reset and the STATUS word. -/

/-- No round key holds a value right after reset (R33). -/
theorem reset_roundKeyReg (n : BitVec 4) : State.reset.roundKeyReg n = Reg.noValue := by
  by_cases hn : n.toNat < 11
  · rw [State.roundKeyReg_of_lt _ n hn]
    exact Vector.getElem_replicate hn
  · simp [State.roundKeyReg, hn]

/-- Settles O1: a read of an index of KEY, STATE or a round key reads a register without a value. -/
theorem resetIsIdleAndHoldsNoValues : Obligations.ResetIsIdleAndHoldsNoValues := by
  unfold Obligations.ResetIsIdleAndHoldsNoValues
  refine ⟨rfl, rfl, rfl, rfl, rfl, rfl, by decide, rfl, rfl, by decide, ?_⟩
  intro idx hidx
  have hread : State.reset.regRead idx = Reg.noValue := by
    obtain rfl | rfl | hrk := hidx
    · rfl
    · rfl
    · rw [State.regRead_of_isRoundKeyIdx _ idx hrk, reset_roundKeyReg]
  exact ⟨_, rfl, by simp [hread]⟩

/-- DIR reads 1 exactly for DECRYPT (R21). -/
theorem Dir.code_getLsbD_zero (d : Dir) : d.code.getLsbD 0 = decide (d = .decrypt) := by
  cases d <;> rfl

/-- Settles O29: each bit of the word falls in one field, by the widths of the fields after it (R117). -/
theorem statusWordHasItsFieldsInPlace : Obligations.StatusWordHasItsFieldsInPlace := by
  unfold Obligations.StatusWordHasItsFieldsInPlace
  intro s
  refine ⟨s.statusWord_bit_zero, ?kv, ?dir, ?bit3, ?ecode, ?phase, ?bit10, ?bit11, ?round,
    rfl, rfl, rfl, rfl, rfl, rfl, rfl, rfl, rfl⟩
  case ecode | phase | round =>
    ext i hi
    rw [BitVec.getElem_extractLsb', State.statusWord, ← BitVec.getLsbD_eq_getElem]
    simp (disch := omega) only [BitVec.getLsbD_append, if_neg, if_pos]
    exact congrArg _ (by omega)
  case kv | dir | bit3 | bit10 | bit11 =>
    simp only [State.statusWord, BitVec.getLsbD_append]
    simp [← s.dir.code_getLsbD_zero]

end Sys2Proof.Machine

/-! PROOF. The host's access to the registers (20_memory.md): the index map, what a read leaves, what each
turn of the order runs, and the writes that are no transaction. -/

namespace Sys2Proof.Machine

/-! The index map. -/

/-- The round-key indices are 0x10 to 0x1A (R35). -/
theorem isRoundKeyIdx_iff (idx : BitVec 5) :
    isRoundKeyIdx idx = true ↔ 0x10 ≤ idx.toNat ∧ idx.toNat ≤ 0x1A := by
  simp [isRoundKeyIdx]

/-- The reserved indices are 0x04 to 0x0F and 0x1B to 0x1F (R35). -/
theorem isReservedIdx_iff (idx : BitVec 5) :
    isReservedIdx idx = true ↔
      (0x04 ≤ idx.toNat ∧ idx.toNat ≤ 0x0F) ∨ (0x1B ≤ idx.toNat ∧ idx.toNat ≤ 0x1F) := by
  have hlt : idx.toNat ≤ 0x1F := Nat.le_of_lt_succ idx.isLt
  simp [isReservedIdx, hlt]

/-- The index of `RK[i]` is `i` above 0x10 (R35). -/
theorem rkIdx_toNat (i : Fin 11) : (rkIdx i).toNat = 0x10 + i.val := by
  revert i
  decide

/-- Settles O33: the classes' bounds are their definitions', and each of the 32 indices is in one. -/
theorem eachIndexNamesOneRegister : Obligations.EachIndexNamesOneRegister := by
  unfold Obligations.EachIndexNamesOneRegister
  refine ⟨rfl, rfl, rfl, rfl, rkIdx_toNat,
    fun idx => ⟨isRoundKeyIdx_iff idx, isReservedIdx_iff idx, ?_⟩⟩
  revert idx
  decide

/-! A read. -/

/-- A payload of `n` bytes has `n` bytes. -/
@[simp] theorem bytesOf_length (n : Nat) (v : Block) : (bytesOf n v).length = n := by
  simp [bytesOf]

/-- Settles O34: a read only records UNINIT and gives its register's payload back. -/
theorem readFrame : Obligations.ReadFrame := by
  unfold Obligations.ReadFrame
  intro idx s t h
  cases h
  exact ⟨⟨⟨rfl, rfl, rfl⟩, ⟨rfl, rfl, rfl, rfl⟩, rfl, rfl⟩, rfl, rfl,
    _, bytesOf_length _ _, State.respond_output _ _⟩

/-! The turns of a step. -/

/-- The host's turn, where the order is used up and no run is going. -/
theorem step_host_goes_on (s : State) (ho : s.order = []) (hb : s.busy = false) :
    step s = hostTurn s := by
  simp [step, takeTurn_nil s ho, hb, runTurn]

/-- The host's turn, where it has nothing to do (R151). -/
theorem hostTurn_of_nil (s : State) (h : s.program = []) : hostTurn s = .next s := by
  simp [hostTurn, h]

/-- The host's turn, where it sends bytes (R152). -/
theorem hostTurn_of_send (s : State) (bs : List Byte) (ms : List HostMove)
    (h : s.program = .send bs :: ms) : hostTurn s = takeBytes bs { s with program := ms } := by
  simp [hostTurn, h]

/-- The host's turn, where it polls (R59). -/
theorem hostTurn_of_poll (s : State) (ms : List HostMove) (h : s.program = .poll :: ms) :
    hostTurn s = exec (.rd statusIdx) (if s.busy then s else { s with program := ms }) := by
  rw [← pollTurn_eq]
  simp [hostTurn, h]

/-- The host's turn, where it resets the block (R142, R152). -/
theorem hostTurn_of_reset (s : State) (ms : List HostMove) (h : s.program = .reset :: ms) :
    hostTurn s = .next { s with program := ms }.resetBlock := by
  simp [hostTurn, h]

/-- Bytes that are exactly one transaction run its instruction (R40). -/
theorem takeBytes_of_decode (bs : List Byte) (i : Instr) (s : State)
    (h : decode .transaction bs = .ok (i, [])) : takeBytes bs s = exec i s := by
  simp [takeBytes, h]

/-- Bytes that are not exactly one transaction are refused (R39). -/
theorem takeBytes_of_not_decode (bs : List Byte) (s : State)
    (h : ∀ i, decode .transaction bs ≠ .ok (i, [])) : takeBytes bs s = .refused .notATransaction := by
  unfold takeBytes
  split
  case h_1 i hd => exact absurd hd (h i)
  case h_2 | h_3 => rfl

/-- Settles O10: the turn is the order's next, or the idle host's where the order is used up, and each
move of the host has its rule. -/
theorem stepRunsTheDecodedInstruction : Obligations.StepRunsTheDecodedInstruction := by
  unfold Obligations.StepRunsTheDecodedInstruction
  refine ⟨?send, ?poll, ?reset, ?sequencer, ?nothing⟩
  case send =>
    intro s es bs ms i hp hd
    constructor
    · intro ho
      rw [step_host s es ho, hostTurn_of_send { s with order := es } bs ms hp,
        takeBytes_of_decode bs i _ hd]
    · intro ho hb
      rw [step_host_goes_on s ho hb, hostTurn_of_send s bs ms hp, takeBytes_of_decode bs i _ hd]
  case poll =>
    intro s es ms hp
    refine ⟨?_, ?_, ?_⟩
    · intro ho hb
      rw [step_host s es ho, hostTurn_of_poll { s with order := es } ms hp, if_pos hb]
    · intro ho hb
      rw [step_host s es ho, hostTurn_of_poll { s with order := es } ms hp, if_neg (by simp [hb])]
    · intro ho hb
      rw [step_host_goes_on s ho hb, hostTurn_of_poll s ms hp, if_neg (by simp [hb])]
  case reset =>
    intro s es ms hp
    constructor
    · intro ho
      rw [step_host s es ho, hostTurn_of_reset { s with order := es } ms hp]
    · intro ho hb
      rw [step_host_goes_on s ho hb, hostTurn_of_reset s ms hp]
  case sequencer =>
    intro s es
    exact ⟨step_sequencer s es, step_run_goes_on s⟩
  case nothing =>
    intro s es hp
    constructor
    · intro ho
      rw [step_host s es ho, hostTurn_of_nil { s with order := es } hp]
    · intro ho hb
      rw [step_host_goes_on s ho hb, hostTurn_of_nil s hp]

/-! Bytes of another width on the wire. -/

/-- The bytes of exactly one write are its header and its register's payload (R49). -/
theorem length_of_decode_write (h : Byte) (rest : List Byte) (i : Instr) (hw : h.getLsbD 7 = true)
    (hd : decode .transaction (h :: rest) = .ok (i, [])) :
    rest.length = payloadBytes (headerIdx h) := by
  simp only [decode, decodeTransaction, headerIsWrite, hw, if_true] at hd
  split at hd
  case isTrue => cases hd
  case isFalse hlong =>
    have hdrop : rest.drop (payloadBytes (headerIdx h)) = [] := congrArg Prod.snd (Except.ok.inj hd)
    have hshort := List.drop_eq_nil_iff.1 hdrop
    omega

/-- The bytes of exactly one read are its header alone (R48). -/
theorem nil_of_decode_read (h : Byte) (rest : List Byte) (i : Instr) (hr : h.getLsbD 7 = false)
    (hd : decode .transaction (h :: rest) = .ok (i, [])) : rest = [] := by
  simp only [decode, decodeTransaction, headerIsWrite, hr, Bool.false_eq_true, if_false] at hd
  exact congrArg Prod.snd (Except.ok.inj hd)

/-- A step refuses bytes that are not exactly one transaction (R39). -/
theorem step_of_not_decode (s : State) (es : List Turn) (ms : List HostMove) (bs : List Byte)
    (ho : s.order = .host :: es) (hp : s.program = .send bs :: ms)
    (h : ∀ i, decode .transaction bs ≠ .ok (i, [])) : step s = .refused .notATransaction := by
  rw [step_host s es ho, hostTurn_of_send { s with order := es } bs ms hp,
    takeBytes_of_not_decode bs _ h]

/-! The digits of a literal. -/

/-- The last digit of a value is the one pushed on it. -/
theorem pushDigit_digit_zero (v : Block) (d : BitVec 4) : (pushDigit v d).extractLsb' 0 4 = d := by
  ext k hk
  have hlt : k < 128 := by omega
  simp [pushDigit, hk, hlt]

/-- Every digit that was there stands one place higher. -/
theorem pushDigit_digit_succ (v : Block) (d : BitVec 4) (m : Nat) (hm : m + 1 < 32) :
    (pushDigit v d).extractLsb' (4 * (m + 1)) 4 = v.extractLsb' (4 * m) 4 := by
  ext k hk
  have hlt : 4 * (m + 1) + k < 128 := by omega
  have hge : ¬ 4 * (m + 1) + k < 4 := by omega
  have hd : d.getLsbD (4 * (m + 1) + k) = false := BitVec.getLsbD_of_ge _ _ (by omega)
  have hplace : 4 * (m + 1) + k - 4 = 4 * m + k := by omega
  have hlow : 4 * m + k < 128 := by omega
  simp [pushDigit, hlt, hge, hd, hplace, BitVec.getLsbD_eq_getElem hlow]

/-- The digits of a literal's value, from its low end, are the literal's digits from its last (R58). -/
theorem literalValue_digit (ds : Literal) (m : Nat) (hm : m < 32) :
    (literalValue ds).extractLsb' (4 * m) 4 = ds.reverse.getD m 0#4 := by
  induction ds using List.reverseRecOn generalizing m with
  | nil => simp [literalValue]
  | append_singleton ds d ih =>
    have hpush : literalValue (ds ++ [d]) = pushDigit (literalValue ds) d := by simp [literalValue]
    rw [hpush, List.reverse_append]
    cases m with
    | zero => exact pushDigit_digit_zero _ d
    | succ m => exact (pushDigit_digit_succ _ d m hm).trans (ih m (by omega))

/-- A byte is its two digits. -/
theorem byte_eq_digits (v : Block) (m : Nat) :
    v.extractLsb' (8 * m) 8 = v.extractLsb' (4 * (2 * m + 1)) 4 ++ v.extractLsb' (4 * (2 * m)) 4 := by
  rw [BitVec.extractLsb'_append_extractLsb'_eq_extractLsb' (by omega), show 4 * (2 * m) = 8 * m by omega]

/-- Byte `j` of the payload of a literal is digits `2j` and `2j + 1` of it, where the literal has two
digits a byte (R37, R58). -/
theorem bytesOf_literalValue_getD (n : Nat) (ds : Literal) (hn : n ≤ 16) (hl : ds.length = 2 * n)
    (j : Nat) (hj : j < n) :
    (bytesOf n (literalValue ds)).getD j 0#8 = ds.getD (2 * j) 0#4 ++ ds.getD (2 * j + 1) 0#4 := by
  have hbyte : (bytesOf n (literalValue ds)).getD j 0#8 =
      (literalValue ds).extractLsb' (8 * (n - 1 - j)) 8 := by
    simp [bytesOf, hj]
  rw [hbyte, byte_eq_digits, literalValue_digit ds _ (by omega), literalValue_digit ds _ (by omega),
    List.getD_reverse _ (by omega), List.getD_reverse _ (by omega)]
  congr 2 <;> omega

/-! The transcriber's refusals. -/

/-- An error of either expansion is an error of the two, one after the other (R135). -/
theorem andThen_error {a b : Except TranscribeError (List HostMove)} {e : TranscribeError}
    (h : a = .error e ∨ b = .error e) : ∃ e', andThen a b = .error e' := by
  cases a with
  | error e' => exact ⟨e', rfl⟩
  | ok x =>
    obtain h | rfl := h
    · cases h
    · exact ⟨e, rfl⟩

/-- One refused line refuses the whole program (R135). -/
theorem transcribe_error_of_mem (ls : List ProgramLine) (l : ProgramLine) (e : TranscribeError)
    (hmem : l ∈ ls) (h : l.moves = .error e) : ∃ e', transcribe ls = .error e' := by
  induction ls with
  | nil => cases hmem
  | cons l' ls ih =>
    obtain rfl | hmem := List.mem_cons.1 hmem
    · exact andThen_error (.inl h)
    · obtain ⟨e', he'⟩ := ih hmem
      exact andThen_error (.inr he')

/-- A literal of another width is refused (R39, R58). -/
theorem Line.move_wr_of_ne (r : RegName) (ds : Literal) (h : ds.length ≠ 2 * payloadBytes r.index) :
    (Line.wr r ds).move = .error .wrongWidth := by
  simp [Line.move, h]

/-- A literal of the right width is sent as a write of its value (R58). -/
theorem Line.move_wr_of_eq (r : RegName) (ds : Literal) (h : ds.length = 2 * payloadBytes r.index) :
    (Line.wr r ds).move = .ok (.send ((0b100#3 ++ r.index) ::
      bytesOf (payloadBytes r.index) (literalValue ds))) := by
  simp [Line.move, h, encode]

/-- Settles O9: the bytes of exactly one transaction have its width, so others decode to none; the
transcriber compares widths before it makes a transaction. -/
theorem wrongWidthWritesAreRefused : Obligations.WrongWidthWritesAreRefused := by
  unfold Obligations.WrongWidthWritesAreRefused
  refine ⟨?wire, Line.move_wr_of_ne, transcribe_error_of_mem, ?literal⟩
  case wire =>
    intro s es ms h rest ho hp
    constructor
    · intro hw hlen
      exact step_of_not_decode s es ms _ ho hp fun i hd => hlen (length_of_decode_write h rest i hw hd)
    · intro hr hrest
      exact step_of_not_decode s es ms _ ho hp fun i hd => hrest (nil_of_decode_read h rest i hr hd)
  case literal =>
    intro r ds hl
    exact ⟨_, Line.move_wr_of_eq r ds hl, bytesOf_length _ _,
      bytesOf_literalValue_getD _ ds (payloadBytes_le _) hl⟩

end Sys2Proof.Machine

/-! PROOF. The encoding (30_encoding.md): a payload and its value, the two formats read back, the reserved
bytes and headers. -/

namespace Sys2Proof.Machine

/-! A payload and its value (R37). -/

/-- A value with one more byte after it: what reading one byte more of a payload makes of it. -/
def pushByte (v : Block) (b : Byte) : Block := (v <<< 8) ||| b.setWidth 128

/-- The value of a payload with one more byte at its end. -/
theorem ofBytes_append_singleton (bs : List Byte) (b : Byte) :
    ofBytes (bs ++ [b]) = pushByte (ofBytes bs) b := by
  simp [ofBytes, pushByte]

/-- The last byte of a value is the one pushed on it. -/
theorem pushByte_byte_zero (v : Block) (b : Byte) : (pushByte v b).extractLsb' 0 8 = b := by
  ext k hk
  have hlt : k < 128 := by omega
  simp [pushByte, hk, hlt]

/-- Every byte that was there stands one place higher. -/
theorem pushByte_byte_succ (v : Block) (b : Byte) (m : Nat) (hm : m + 1 < 16) :
    (pushByte v b).extractLsb' (8 * (m + 1)) 8 = v.extractLsb' (8 * m) 8 := by
  ext k hk
  have hplace : 8 * (m + 1) + k = 8 + (8 * m + k) := by omega
  have hlt : 8 + (8 * m + k) < 128 := by omega
  have hlow : 8 * m + k < 128 := by omega
  simp [pushByte, hplace, hlt, BitVec.getLsbD_eq_getElem hlow]

/-- The bytes of a value with one more byte after it. -/
theorem bytesOf_succ_pushByte (n : Nat) (v : Block) (b : Byte) (hn : n < 16) :
    bytesOf (n + 1) (pushByte v b) = bytesOf n v ++ [b] := by
  have hhigh : ∀ j ∈ List.range n,
      (pushByte v b).extractLsb' (8 * (n - j)) 8 = v.extractLsb' (8 * (n - 1 - j)) 8 := by
    intro j hj
    have hlt : j < n := List.mem_range.1 hj
    rw [show n - j = n - 1 - j + 1 by omega]
    exact pushByte_byte_succ v b _ (by omega)
  simp only [bytesOf, List.range_succ, List.map_append, List.map_singleton, Nat.add_sub_cancel,
    Nat.sub_self, Nat.mul_zero, List.map_congr_left hhigh, pushByte_byte_zero]

/-- A value is what stands above its last byte, and that byte after it. -/
theorem pushByte_shift (v : Block) : pushByte (v >>> 8) (v.extractLsb' 0 8) = v := by
  apply BitVec.eq_of_getLsbD_eq
  intro k hk
  by_cases hlow : k < 8
  · simp [pushByte, hk, hlow]
  · simp [pushByte, hk, hlow, show 8 + (k - 8) = k by omega]

/-- A payload of `n` bytes has a value of `n` bytes (R49). -/
theorem ofBytes_lt (bs : List Byte) : (ofBytes bs).toNat < 2 ^ (8 * bs.length) := by
  induction bs using List.reverseRecOn with
  | nil => decide
  | append_singleton bs b ih =>
    have hwidth : 2 ^ (8 * (bs ++ [b]).length) = 2 ^ (8 * bs.length) * 2 ^ 8 := by
      rw [← Nat.pow_add, List.length_append, List.length_singleton, Nat.mul_add]
    have hhigh : (ofBytes bs <<< 8).toNat < 2 ^ (8 * (bs ++ [b]).length) := by
      rw [BitVec.toNat_shiftLeft, Nat.shiftLeft_eq, hwidth]
      exact (Nat.mod_le _ _).trans_lt (Nat.mul_lt_mul_of_pos_right ih (by decide))
    have hlow : (b.setWidth 128).toNat < 2 ^ (8 * (bs ++ [b]).length) := by
      rw [BitVec.toNat_setWidth_of_le (by decide)]
      exact b.isLt.trans_le (Nat.pow_le_pow_right (by decide) (by simp))
    rw [ofBytes_append_singleton, pushByte, BitVec.toNat_or]
    exact Nat.or_lt_two_pow hhigh hlow

/-- A payload's value has the payload for its bytes. -/
theorem bytesOf_ofBytes (bs : List Byte) (h : bs.length ≤ 16) :
    bytesOf bs.length (ofBytes bs) = bs := by
  induction bs using List.reverseRecOn with
  | nil => rfl
  | append_singleton bs b ih =>
    have hlen : bs.length < 16 := Nat.lt_of_succ_le (by simpa using h)
    rw [List.length_append, List.length_singleton, ofBytes_append_singleton,
      bytesOf_succ_pushByte _ _ b hlen, ih hlen.le]

/-- The bytes of a value that has no others are a payload of that value. -/
theorem ofBytes_bytesOf (n : Nat) (v : Block) (hn : n ≤ 16) (h : v.toNat < 2 ^ (8 * n)) :
    ofBytes (bytesOf n v) = v := by
  induction n generalizing v with
  | zero =>
    have hzero : v = 0#128 := BitVec.eq_of_toNat_eq (by simpa using h)
    rw [hzero]
    rfl
  | succ n ih =>
    have hhigh : (v >>> 8).toNat < 2 ^ (8 * n) := by
      rw [BitVec.toNat_ushiftRight, Nat.shiftRight_eq_div_pow, Nat.div_lt_iff_lt_mul (by decide),
        ← Nat.pow_add]
      exact h
    have hbytes : bytesOf (n + 1) v = bytesOf n (v >>> 8) ++ [v.extractLsb' 0 8] := by
      simpa only [pushByte_shift] using bytesOf_succ_pushByte n (v >>> 8) (v.extractLsb' 0 8) hn
    rw [hbytes, ofBytes_append_singleton, ih _ (by omega) hhigh, pushByte_shift]

/-! The two formats read back. -/

/-- A command is encoded in one byte, which decodes to it (R52, R54). -/
theorem decodeCommand_encode (i : Instr) (h : formatOf i = .command) :
    ∃ c, encode i = [c] ∧ decodeCommand c = .ok i := by
  cases i
  case rd | wr => cases h
  case addRoundKey n =>
    refine ⟨_, rfl, ?_⟩
    revert n
    decide
  all_goals exact ⟨_, rfl, by decide⟩

/-- The opcode map gives a command its own byte, where RND is 0 but for ADD_ROUND_KEY (R54). -/
theorem encode_of_commandOf (op rnd : BitVec 4) (i : Instr) (h : commandOf op rnd = .ok i)
    (hrnd : op ≠ 0xA#4 → rnd = 0#4) : encode i = [rnd ++ op] := by
  by_cases hop : op = 0xA#4
  · subst hop
    cases h
    rfl
  · rw [hrnd hop] at h ⊢
    unfold commandOf at h
    repeat (split at h; (next heq => (subst heq; cases h; rfl)))
    cases h

/-- A command byte is its two fields (R52). -/
theorem rndField_append_opField (c : Byte) : rndField c ++ opField c = c := by
  revert c
  decide

/-- A byte that decodes to a command is the command's own (R54). -/
theorem encode_of_decodeCommand (c : Byte) (i : Instr) (h : decodeCommand c = .ok i) :
    encode i = [c] := by
  unfold decodeCommand at h
  split at h
  · cases h
  · split at h
    · cases h
    next hrnd =>
      rw [encode_of_commandOf _ _ i h (fun hop => by_contra fun hne => hrnd ⟨hop, hne⟩),
        rndField_append_opField]

/-- A header with bit 7 clear is a read; the bytes after it are left alone (R48). -/
theorem decode_read (h : Byte) (rest : List Byte) (hr : headerIsWrite h = false) :
    decode .transaction (h :: rest) = .ok (.rd (headerIdx h), rest) := by
  simp [decode, decodeTransaction, hr]

/-- A header with bit 7 set takes its register's payload; the bytes after it are left alone (R48, R49). -/
theorem decode_write (h : Byte) (payload rest : List Byte) (hw : headerIsWrite h = true)
    (hlen : payload.length = payloadBytes (headerIdx h)) :
    decode .transaction (h :: (payload ++ rest)) = .ok (.wr (headerIdx h) (ofBytes payload), rest) := by
  simp [decode, decodeTransaction, hw, ← hlen]

/-- Every transaction the decoder reads: a read's header, or a write's header and its payload. -/
theorem decode_transaction_cases (bs rest : List Byte) (i : Instr)
    (hd : decode .transaction bs = .ok (i, rest)) :
    (∃ h, bs = h :: rest ∧ i = .rd (headerIdx h)) ∨
      (∃ h payload, bs = h :: (payload ++ rest) ∧ payload.length = payloadBytes (headerIdx h) ∧
        i = .wr (headerIdx h) (ofBytes payload)) := by
  cases bs with
  | nil => cases hd
  | cons h given =>
    simp only [decode, decodeTransaction] at hd
    split at hd
    case isFalse =>
      cases hd
      exact .inl ⟨h, rfl, rfl⟩
    case isTrue =>
      split at hd
      case isTrue => cases hd
      case isFalse hlong =>
        cases hd
        exact .inr ⟨h, _, by rw [List.take_append_drop], List.length_take_of_le (by omega), rfl⟩

/-- The header of `RD idx` (R48). -/
theorem header_rd (idx : BitVec 5) :
    headerIsWrite (0b000#3 ++ idx) = false ∧ headerIdx (0b000#3 ++ idx) = idx := by
  revert idx
  decide

/-- The header of `WR idx` (R48). -/
theorem header_wr (idx : BitVec 5) :
    headerIsWrite (0b100#3 ++ idx) = true ∧ headerIdx (0b100#3 ++ idx) = idx := by
  revert idx
  decide

/-- Settles O4: a command's byte decodes to it; a transaction's header gives its index back, and a
write's payload its value. -/
theorem decodeOfEncodeIsTheInstruction : Obligations.DecodeOfEncodeIsTheInstruction := by
  unfold Obligations.DecodeOfEncodeIsTheInstruction
  intro i rest hwf
  cases hf : formatOf i with
  | command =>
    obtain ⟨c, hc, hd⟩ := decodeCommand_encode i hf
    simp [hc, decode, hd]
  | transaction =>
    cases i
    case rd idx =>
      obtain ⟨hr, hidx⟩ := header_rd idx
      exact (decode_read _ rest hr).trans (by rw [hidx])
    case wr idx v =>
      obtain ⟨hw, hidx⟩ := header_wr idx
      have hv : ofBytes (bytesOf (payloadBytes idx) v) = v :=
        ofBytes_bytesOf _ v (payloadBytes_le idx) (of_decide_eq_true hwf)
      exact (decode_write _ _ rest hw (by rw [hidx, bytesOf_length])).trans (by rw [hidx, hv])
    all_goals cases hf

/-- Settles O5: a command's byte decodes to it, and a decoded byte is its command's. -/
theorem commandByteIsItsCommandsEncoding : Obligations.CommandByteIsItsCommandsEncoding := by
  unfold Obligations.CommandByteIsItsCommandsEncoding
  intro c i
  constructor
  · intro h
    exact ⟨decodeCommand_isCommand c i h, encode_of_decodeCommand c i h⟩
  · rintro ⟨hf, hc⟩
    obtain ⟨c', hc', hd⟩ := decodeCommand_encode i hf
    obtain rfl : c' = c := List.singleton_inj.1 (hc'.symm.trans hc)
    exact hd

/-- Settles O7: a read takes its header; a write takes its payload, whose value has its bytes. -/
theorem decodedTransactionTakesItsOwnBytes : Obligations.DecodedTransactionTakesItsOwnBytes := by
  unfold Obligations.DecodedTransactionTakesItsOwnBytes
  intro bs rest i hd
  obtain ⟨h, hbs, rfl⟩ | ⟨h, payload, hbs, hlen, rfl⟩ := decode_transaction_cases bs rest i hd
  · exact ⟨rfl, .inl ⟨h, _, hbs, rfl⟩⟩
  · have hwf : (Instr.wr (headerIdx h) (ofBytes payload)).wf = true :=
      decide_eq_true (hlen ▸ ofBytes_lt payload)
    have hbytes : bytesOf (payloadBytes (headerIdx h)) (ofBytes payload) = payload :=
      hlen ▸ bytesOf_ofBytes payload (hlen ▸ payloadBytes_le _)
    exact ⟨hwf, .inr ⟨h, payload, _, _, hbs, hlen, rfl, hbytes⟩⟩

/-! Reserved bytes and headers. -/

/-- The opcode map has a command for every operation code below 0xB (R54). -/
theorem commandOf_isOk (op rnd : BitVec 4) (h : op.toNat < 0xB) : (commandOf op rnd).isOk = true := by
  revert op rnd
  decide

/-- The RESERVED bytes (R55, R56). -/
theorem decodeCommand_reserved_iff (c : Byte) :
    decodeCommand c = .error .reservedCommand ↔
      (0xB ≤ (opField c).toNat ∨ (opField c ≠ 0xA#4 ∧ rndField c ≠ 0#4)) := by
  unfold decodeCommand
  split
  case isTrue hop => simp [hop]
  split
  case isTrue hrnd => simp [hrnd]
  case isFalse hop hrnd =>
    have hok := commandOf_isOk (opField c) (rndField c) (by omega)
    refine iff_of_false (fun herr => ?_) (not_or.2 ⟨hop, hrnd⟩)
    rw [herr] at hok
    cases hok

/-- Settles O3: the decoder and the transcriber, run on the words. -/
theorem wordsFromTheEncodingTablesDecode : Obligations.WordsFromTheEncodingTablesDecode := by
  unfold Obligations.WordsFromTheEncodingTablesDecode
  refine ⟨?_, ?_, ?_, ?_, ?_, ?_, ?_, ?_, ?_, ?_, ?_, ⟨reservedHeaderIdx, ?_, ?_, ?_⟩, ?_, ?_, ?_, ?_⟩
  all_goals decide

/-- Settles O6: the command bytes are counted, and the RESERVED ones are the rest. -/
theorem twentySixBytesAreCommands : Obligations.TwentySixBytesAreCommands := by
  unfold Obligations.TwentySixBytesAreCommands
  have hcount :
      ((List.range 256).filter fun n => (decodeCommand (BitVec.ofNat 8 n)).isOk).length = 26 := by
    decide
  have hsum := List.length_eq_length_filter_add (l := List.range 256)
    fun n => (decodeCommand (BitVec.ofNat 8 n)).isOk
  rw [hcount, List.length_range] at hsum
  exact ⟨hcount, by omega, decodeCommand_reserved_iff⟩

/-- A reserved header names a reserved index (R50). -/
theorem headerIdx_of_reserved (h : Byte) (hres : h.extractLsb' 5 2 ≠ 0#2) :
    headerIdx h = reservedHeaderIdx :=
  if_neg hres

/-- A read of a reserved index gives 0x00 back and leaves everything else (R121). -/
theorem exec_rd_reservedHeaderIdx (s : State) :
    exec (.rd reservedHeaderIdx) s = .next { s with output := s.output ++ [0x00#8] } := by
  have hreg : s.regRead reservedHeaderIdx = Reg.of 0#128 := rfl
  have hbytes : bytesOf (payloadBytes reservedHeaderIdx) 0#128 = [0x00#8] := by decide
  simp [exec, execRd, hreg, hbytes, State.respond]

/-- Settles O8: the header decodes to an access to a reserved index. -/
theorem reservedHeaderTouchesNoRegister : Obligations.ReservedHeaderTouchesNoRegister := by
  unfold Obligations.ReservedHeaderTouchesNoRegister
  intro h b rest s hres
  have hidx := headerIdx_of_reserved h hres
  constructor
  · intro hr
    exact ⟨_, decode_read h rest hr, hidx ▸ exec_rd_reservedHeaderIdx s⟩
  · intro hw
    exact ⟨_, decode_write h [b] rest hw (by rw [hidx]; rfl), hidx ▸ rfl⟩

/-- A write of a byte to CMD is `WriteCmd` of it (R122, R123). -/
theorem exec_wr_cmdIdx (c : Byte) (s : State) :
    exec (.wr cmdIdx (c.setWidth 128)) s = writeCmd c s := by
  have hbyte : (c.setWidth 128).setWidth 8 = c := by simp
  exact congrArg (writeCmd · s) hbyte

/-- `WriteCmd` of a byte that decodes to no command writes the code of its check (R56, R131). -/
theorem writeCmd_of_error (c : Byte) (e : DecodeError) (s : State) (h : decodeCommand c = .error e) :
    writeCmd c s = .next (s.reject (s.check (.error e))) := by
  have hcheck : s.check (.error e) ≠ .none := by
    cases hb : s.busy
    · simp [s.check_error e hb]
    · simp [s.check_busy _ hb]
  simp [writeCmd, h, s.issue_of_rejected _ _ hcheck]

/-- Settles O12: a RESERVED byte decodes to no command, so the write's check fails. -/
theorem reservedCommandByteIsIllegalOp : Obligations.ReservedCommandByteIsIllegalOp := by
  unfold Obligations.ReservedCommandByteIsIllegalOp
  intro c s hres
  rw [exec_wr_cmdIdx, writeCmd_of_error c _ s ((decodeCommand_reserved_iff c).2 hres)]
  constructor
  · intro hb
    rw [s.check_error _ hb]
    rfl
  · intro hb
    rw [s.check_busy _ hb]
    rfl

end Sys2Proof.Machine

/-! PROOF. GF(2^8) (40_gf_arith.md): the product's rules for 0, 1, `xtime` and XOR, which fix it, and the
powers of 0x03, whose exponents are the logarithms. -/

namespace Sys2Proof.Machine

/-- The terms of a sum of two sums, paired the other way. -/
theorem xor_xor_xor_comm (a b c d : Byte) : (a ^^^ b) ^^^ (c ^^^ d) = (a ^^^ c) ^^^ (b ^^^ d) := by
  ac_rfl

/-! `xtime` (R63). -/

@[simp] theorem xtime_zero : xtime 0x00#8 = 0x00#8 := rfl

/-- `xtime` is a shift and a reduction (R63). -/
theorem xtime_eq_shift_xor (a : Byte) :
    xtime a = (a <<< 1) ^^^ (if a.getLsbD 7 then 0x1B#8 else 0x00#8) := by
  unfold xtime
  split
  · rfl
  · exact (BitVec.xor_zero).symm

@[simp] theorem xtime_xor (a b : Byte) : xtime (a ^^^ b) = xtime a ^^^ xtime b := by
  have hreduction : (if (a ^^^ b).getLsbD 7 then 0x1B#8 else 0x00#8) =
      (if a.getLsbD 7 then 0x1B#8 else 0x00#8) ^^^ (if b.getLsbD 7 then 0x1B#8 else 0x00#8) := by
    rw [BitVec.getLsbD_xor]
    cases a.getLsbD 7 <;> cases b.getLsbD 7 <;> rfl
  rw [xtime_eq_shift_xor, xtime_eq_shift_xor a, xtime_eq_shift_xor b, hreduction,
    BitVec.shiftLeft_xor_distrib, xor_xor_xor_comm]

/-- A byte is `x` times its higher bits, and its lowest bit (R62). -/
theorem eq_xtime_half (a : Byte) :
    a = xtime (a >>> 1) ∨ a = xtime (a >>> 1) ^^^ 0x01#8 := by
  revert a
  decide

/-- The bytes come from 0x00 by `xtime` and by adding 0x01: Horner's scheme for the polynomials of R62. -/
theorem horner_induction {P : Byte → Prop} (zero : P 0x00#8) (mul_x : ∀ a, P a → P (xtime a))
    (add_one : ∀ a, P a → P (a ^^^ 0x01#8)) (a : Byte) : P a := by
  by_cases ha : a = 0x00#8
  · exact ha ▸ zero
  · have hpos : a.toNat ≠ 0 := fun h => ha (BitVec.eq_of_toNat_eq h)
    have hlt : (a >>> 1).toNat < a.toNat := by
      rw [BitVec.toNat_ushiftRight, Nat.shiftRight_eq_div_pow]
      omega
    have half := horner_induction zero mul_x add_one (a >>> 1)
    obtain h | h := eq_xtime_half a
    · exact h ▸ mul_x _ half
    · exact h ▸ add_one _ (mul_x _ half)
termination_by a.toNat

/-! The loop of R62 is additive in its first operand and goes along with `xtime`. -/

/-- The XOR of two states of the loop, part by part. -/
def xorState (p q : Byte × Byte) : Byte × Byte := (p.1 ^^^ q.1, p.2 ^^^ q.2)

theorem gmulPass_xorState (b : Byte) (p q : Byte × Byte) (i : Nat) :
    xorState (gmulPass b p i) (gmulPass b q i) = gmulPass b (xorState p q) i := by
  cases h : b.getLsbD i <;>
    simp [gmulPass, xorState, h, xor_xor_xor_comm]

theorem gmulPass_map_xtime (b : Byte) (p : Byte × Byte) (i : Nat) :
    gmulPass b (p.map xtime xtime) i = (gmulPass b p i).map xtime xtime := by
  cases h : b.getLsbD i <;> simp [gmulPass, h]

/-! The product from its first operand. -/

@[simp] theorem gmul_xor_left (a b c : Byte) : gmul (a ^^^ b) c = gmul a c ^^^ gmul b c := by
  have hstart : xorState (0x00#8, a) (0x00#8, b) = (0x00#8, a ^^^ b) := by simp [xorState]
  have hloop := List.foldl_hom₂ (List.range 8) xorState (gmulPass c) (gmulPass c) (gmulPass c)
    (0x00#8, a) (0x00#8, b) (gmulPass_xorState c)
  rw [hstart] at hloop
  exact congrArg Prod.fst hloop

@[simp] theorem gmul_xtime_left (a b : Byte) : gmul (xtime a) b = xtime (gmul a b) :=
  congrArg Prod.fst <| List.foldl_hom (l := List.range 8) (init := (0x00#8, a))
    (Prod.map xtime xtime) (gmulPass_map_xtime b)

@[simp] theorem gmul_zero_left (a : Byte) : gmul 0x00#8 a = 0x00#8 := by
  simpa using gmul_xor_left 0x00#8 0x00#8 a

@[simp] theorem gmul_one_left (a : Byte) : gmul 0x01#8 a = a := by
  revert a
  decide

/-! The product from its second operand, by Horner's scheme for the first. -/

@[simp] theorem gmul_xor_right (a b c : Byte) : gmul a (b ^^^ c) = gmul a b ^^^ gmul a c := by
  induction a using horner_induction with
  | zero => simp
  | mul_x a ih => simp [ih]
  | add_one a ih => simp [ih, xor_xor_xor_comm]

@[simp] theorem gmul_xtime_right (a b : Byte) : gmul a (xtime b) = xtime (gmul a b) := by
  induction a using horner_induction with
  | zero => simp
  | mul_x a ih => simp [ih]
  | add_one a ih => simp [ih]

@[simp] theorem gmul_zero_right (a : Byte) : gmul a 0x00#8 = 0x00#8 := by
  simpa using gmul_xor_right a 0x00#8 0x00#8

@[simp] theorem gmul_one_right (a : Byte) : gmul a 0x01#8 = a := by
  induction a using horner_induction with
  | zero => simp
  | mul_x a ih => simp [ih]
  | add_one a ih => simp [ih]

/-- Multiplication by 0x02 is `xtime` (R63). -/
theorem gmul_two_right (a : Byte) : gmul a 0x02#8 = xtime a := by
  simpa [show xtime 0x01#8 = 0x02#8 from rfl] using gmul_xtime_right a 0x01#8

theorem gmul_comm (a b : Byte) : gmul a b = gmul b a := by
  induction a using horner_induction with
  | zero => simp
  | mul_x a ih => simp [ih]
  | add_one a ih => simp [ih]

theorem gmul_assoc (a b c : Byte) : gmul (gmul a b) c = gmul a (gmul b c) := by
  induction a using horner_induction with
  | zero => simp
  | mul_x a ih => simp [ih]
  | add_one a ih => simp [ih]

/-- Settles O55: the loop gives the product's rules for the first operand, and Horner's scheme carries them
to the second. -/
theorem gmulIsTheFieldProduct : Obligations.GmulIsTheFieldProduct := by
  unfold Obligations.GmulIsTheFieldProduct
  exact ⟨fun a => ⟨gmul_zero_right a, gmul_zero_left a, gmul_one_right a⟩, gmul_two_right, gmul_comm,
    gmul_xor_right, fun a b c => (gmul_assoc a b c).symm⟩

/-! EXP, LOG and the powers of 0x03 (R64 to R66). -/

/-- The powers of 0x03. -/
def powThree : Nat → Byte
  | 0 => 0x01#8
  | n + 1 => gmul (powThree n) 0x03#8

theorem powThree_add (m n : Nat) : powThree (m + n) = gmul (powThree m) (powThree n) := by
  induction n with
  | zero => simp [powThree]
  | succ n ih => rw [← Nat.add_assoc, powThree, ih, powThree, gmul_assoc]

/-- Each entry of EXP is 0x03 times the one before it (R64). -/
theorem expTable_add_one (i : Byte) (hi : i ≠ 255#8) :
    expTable (i + 1#8) = gmul (expTable i) 0x03#8 := by
  revert i
  decide +kernel

/-- EXP holds the powers of 0x03 (R64). -/
theorem expTable_ofNat (n : Nat) (hn : n ≤ 255) : expTable (BitVec.ofNat 8 n) = powThree n := by
  induction n with
  | zero => rfl
  | succ n ih =>
    have hlast : BitVec.ofNat 8 n ≠ 255#8 := by bv_omega
    rw [BitVec.ofNat_add, expTable_add_one _ hlast, ih (by omega), powThree]

/-- The order of 0x03 divides 255 (R65). -/
theorem powThree_255 : powThree 255 = 0x01#8 :=
  (expTable_ofNat 255 le_rfl).symm.trans (by decide)

/-- LOG gives the exponent back (R66). -/
theorem readLog_expTable (i : Byte) (hi : i ≠ 255#8) : readLog (expTable i) = .ok i := by
  revert i
  decide +kernel

/-- Every non-zero byte has a logarithm below 255 (R66). -/
theorem exists_readLog (a : Byte) (ha : a ≠ 0x00#8) :
    ∃ l, readLog a = .ok l ∧ l ≠ 255#8 ∧ expTable l = a := by
  have hentry : ∀ c : Byte, c ≠ 0x00#8 →
      tableEntry logRows c ≠ 255#8 ∧ expTable (tableEntry logRows c) = c := by decide +kernel
  exact ⟨_, if_neg ha, hentry a ha⟩

/-- The logarithm of a non-zero byte, as an exponent. -/
theorem exists_readLog_eq_powThree (a : Byte) (ha : a ≠ 0x00#8) :
    ∃ l, readLog a = .ok l ∧ l.toNat < 255 ∧ powThree l.toNat = a := by
  obtain ⟨l, hl, hlast, hexp⟩ := exists_readLog a ha
  refine ⟨l, hl, by bv_omega, ?_⟩
  rw [← expTable_ofNat _ (by omega), BitVec.ofNat_toNat, BitVec.setWidth_eq, hexp]

/-- Exponents count modulo 255, so the sum of two logarithms, less 255 where it is above 255, names the
entry of EXP that is the product (R65, R67). -/
theorem expTable_add (m n : Nat) (hm : m < 255) (hn : n < 255) :
    expTable (BitVec.ofNat 8 (if 255 < m + n then m + n - 255 else m + n)) =
      gmul (powThree m) (powThree n) := by
  rw [expTable_ofNat _ (by split <;> omega), ← powThree_add]
  split
  case isFalse => rfl
  case isTrue h =>
    calc powThree (m + n - 255)
        = gmul (powThree (m + n - 255)) (powThree 255) := by rw [powThree_255, gmul_one_right]
      _ = powThree (m + n - 255 + 255) := (powThree_add _ _).symm
      _ = powThree (m + n) := by rw [Nat.sub_add_cancel (by omega)]

/-- The inverse has the opposite exponent (R68). -/
theorem gmul_inv (a : Byte) (ha : a ≠ 0x00#8) : gmul a (inv a) = 0x01#8 := by
  obtain ⟨l, hl, hlt, hpow⟩ := exists_readLog_eq_powThree a ha
  have hinv : inv a = powThree ((255 - l.toNat) % 255) := by
    simp only [inv, hl]
    exact expTable_ofNat _ (by omega)
  have hproduct : gmul a (inv a) = powThree (l.toNat + (255 - l.toNat) % 255) := by
    rw [hinv, powThree_add, hpow]
  obtain hzero | hpos := Nat.eq_zero_or_pos l.toNat
  · rw [hproduct, hzero, powThree]
  · have hsum : l.toNat + (255 - l.toNat) % 255 = 255 := by omega
    rw [hproduct, hsum, powThree_255]

/-- The multiplier tables hold the products (R69). -/
theorem mulTable_eq_gmul (k : Byte) (hk : k ∈ [0x02#8, 0x03#8, 0x09#8, 0x0B#8, 0x0D#8, 0x0E#8])
    (a : Byte) : mulTable k a = some (gmul k a) := by
  revert k a
  decide +kernel

/-- Settles O56: EXP, LOG and the multiplier tables are read through, and the inverse follows from the
exponents. -/
theorem fieldTablesAreWhatTheirRulesSay : Obligations.FieldTablesAreWhatTheirRulesSay := by
  unfold Obligations.FieldTablesAreWhatTheirRulesSay
  exact ⟨⟨rfl, by decide, expTable_add_one⟩, exists_readLog, readLog_expTable, ⟨rfl, gmul_inv⟩,
    gmul_two_right, ⟨rfl, by decide⟩, mulTable_eq_gmul⟩

/-- The table form of the product (R67). -/
theorem gmulTab_eq_gmul (a b : Byte) : gmulTab a b = .ok (gmul a b) := by
  by_cases hzero : a = 0x00#8 ∨ b = 0x00#8
  case pos =>
    have hproduct : gmul a b = 0x00#8 := by obtain rfl | rfl := hzero <;> simp
    rw [hproduct]
    exact if_pos hzero
  case neg =>
    obtain ⟨ha, hb⟩ := not_or.1 hzero
    obtain ⟨la, hla, hlta, hpowa⟩ := exists_readLog_eq_powThree a ha
    obtain ⟨lb, hlb, hltb, hpowb⟩ := exists_readLog_eq_powThree b hb
    have hexp := expTable_add la.toNat lb.toNat hlta hltb
    rw [hpowa, hpowb] at hexp
    simp only [gmulTab, if_neg hzero, hla, hlb, hexp]

/-- Settles O54: logarithms add as their bytes multiply, and a zero operand never reaches LOG. -/
theorem tableFormOfGmulIsGmul : Obligations.TableFormOfGmulIsGmul := by
  unfold Obligations.TableFormOfGmulIsGmul
  exact ⟨gmulTab_eq_gmul, rfl⟩

end Sys2Proof.Machine

/-! PROOF. The commands that write STATE and ECODE at most (41_sbox.md, section 3; 43_round_transforms.md,
section 4; R112): what an accepted one leaves, and what each of them keeps. -/

namespace Sys2Proof.Machine

/-- An accepted transform command, in full: STATE through its function, ECODE <- 0 and the record of the
read of STATE (the template of 41_sbox.md, section 3). -/
theorem State.issue_mapState_of_idle (s : State) (i : Instr) (f : Block → Block)
    (hi : i ∈ [.subBytes, .invSubBytes, .shiftRows, .invShiftRows, .mixColumns, .invMixColumns])
    (hb : s.busy = false) :
    s.issue (.ok i) (·.mapState f) = { s with
      ecode := .none, state := Reg.of (f s.state.value),
      uninit := s.uninit || !s.state.written } := by
  obtain ⟨-, hsched, hname, -⟩ := transform_reads_state i s hi
  have hc : s.check (.ok i) = .none := (s.check_ok_eq_none_iff i).2 ⟨hb, by simp [hsched], hname⟩
  rw [s.issue_of_accepted _ _ hc]
  rfl

/-- Settles O18: both commands are accepted while idle, and their functions go byte by byte. -/
theorem subBytesCommandsSubstituteEveryByte : Obligations.SubBytesCommandsSubstituteEveryByte := by
  unfold Obligations.SubBytesCommandsSubstituteEveryByte
  intro s hb
  refine ⟨?sub, ?invSub, fun v i hi => ⟨byte_subBytes v i hi, byte_invSubBytes v i hi⟩⟩
  case sub => exact congrArg Host.Outcome.next (s.issue_mapState_of_idle .subBytes _ (by simp) hb)
  case invSub =>
    exact congrArg Host.Outcome.next (s.issue_mapState_of_idle .invSubBytes _ (by simp) hb)

/-- Every transform command issues a function of STATE (R77, R78, R93 to R96). -/
theorem exec_transform_eq_issue (i : Instr) (s : State)
    (hi : i ∈ [.subBytes, .invSubBytes, .shiftRows, .invShiftRows, .mixColumns, .invMixColumns]) :
    ∃ f, exec i s = .next (s.issue (.ok i) (·.mapState f)) := by
  simp only [List.mem_cons, List.not_mem_nil, or_false] at hi
  obtain rfl | rfl | rfl | rfl | rfl | rfl := hi <;> exact ⟨_, rfl⟩

/-- All that NOP does is a write of ECODE (R112). -/
theorem exec_nop_eq_setECode (s : State) : ∃ e, exec .nop s = .next (s.setECode e) := by
  obtain ⟨-, heq⟩ | ⟨-, heq⟩ := s.issue_cases (.ok .nop) fun t => t
  · exact ⟨_, congrArg Host.Outcome.next heq⟩
  · exact ⟨_, congrArg Host.Outcome.next heq⟩

/-- A write of ECODE keeps KEY, the schedule, the run and the host's side. -/
theorem State.setECode_frame (s : State) (e : ECode) :
    s.SameKey (s.setECode e) ∧ s.SameRun (s.setECode e) ∧ s.SameHost (s.setECode e) :=
  ⟨⟨rfl, rfl, rfl⟩, ⟨rfl, rfl, rfl, rfl⟩, rfl, rfl, rfl⟩

/-- A command keeps KEY, the schedule, the run and the host's side if its effect does: a rejection
writes ECODE alone (R131). -/
theorem State.issue_frame (s : State) (cmd : Except DecodeError Instr) (effect : State → State)
    (accepted : s.SameKey (effect (s.setECode .none)) ∧ s.SameRun (effect (s.setECode .none)) ∧
      s.SameHost (effect (s.setECode .none))) :
    s.SameKey (s.issue cmd effect) ∧ s.SameRun (s.issue cmd effect) ∧
      s.SameHost (s.issue cmd effect) := by
  obtain ⟨-, heq⟩ | ⟨-, heq⟩ := s.issue_cases cmd effect
  · exact heq ▸ accepted
  · exact heq ▸ s.setECode_frame _

/-- Settles O35: NOP writes ECODE, and the effect of every other of these commands STATE. -/
theorem transformCommandFrame : Obligations.TransformCommandFrame := by
  unfold Obligations.TransformCommandFrame
  intro i s t hi h
  obtain hi | ⟨n, rfl⟩ := hi
  · obtain rfl | hi := List.mem_cons.1 hi
    case inl =>
      obtain ⟨e, he⟩ := exec_nop_eq_setECode s
      cases he.symm.trans h
      obtain ⟨hkey, hrun, hhost⟩ := s.setECode_frame e
      exact ⟨hkey, hrun, hhost, fun _ => ⟨rfl, rfl⟩⟩
    case inr =>
      obtain ⟨f, hf⟩ := exec_transform_eq_issue i s hi
      cases hf.symm.trans h
      obtain ⟨hkey, hrun, hhost⟩ := s.issue_frame (.ok i) (·.mapState f)
        ⟨⟨rfl, rfl, rfl⟩, ⟨rfl, rfl, rfl, rfl⟩, rfl, rfl, rfl⟩
      exact ⟨hkey, hrun, hhost, fun hnop => absurd (hnop ▸ hi) (by simp)⟩
  · cases h
    obtain ⟨hkey, hrun, hhost⟩ := s.issue_frame (.ok (.addRoundKey n))
      (·.mapStateWithKey addRoundKey n) ⟨⟨rfl, rfl, rfl⟩, ⟨rfl, rfl, rfl, rfl⟩, rfl, rfl, rfl⟩
    exact ⟨hkey, hrun, hhost, nofun⟩

end Sys2Proof.Machine

/-! PROOF. The S-box (41_sbox.md, sections 1 and 2) and the transforms' inverses (R76, R87, R91, R92): by
bytes, by places, and by columns as products of circulant matrices. -/

namespace Sys2Proof.Machine

/-! SBOX and SINV. -/

/-- SBOX holds the affine images of the inverses (R71). -/
theorem sbox_eq_affine_inv (x : Byte) : sbox x = affine (inv x) := by
  revert x
  decide +kernel

@[simp] theorem sinv_sbox (x : Byte) : sinv (sbox x) = x := by
  revert x
  decide +kernel

@[simp] theorem sbox_sinv (y : Byte) : sbox (sinv y) = y := by
  revert y
  decide +kernel

/-- No byte is its own image (R73). -/
theorem sbox_ne_self (x : Byte) : sbox x ≠ x := by
  revert x
  decide +kernel

/-- Settles O57: the tables are read through. -/
theorem sboxIsTheAffineImageOfTheInverse : Obligations.SboxIsTheAffineImageOfTheInverse := by
  unfold Obligations.SboxIsTheAffineImageOfTheInverse
  exact fun x => ⟨sbox_eq_affine_inv x, sinv_sbox x, sbox_sinv x, sbox_ne_self x⟩

/-! SubBytes and ShiftRows. -/

theorem invSubBytes_subBytes (s : Block) : invSubBytes (subBytes s) = s :=
  block_ext _ _ fun i hi => by rw [byte_invSubBytes _ i hi, byte_subBytes _ i hi, sinv_sbox]

theorem subBytes_invSubBytes (s : Block) : subBytes (invSubBytes s) = s :=
  block_ext _ _ fun i hi => by rw [byte_subBytes _ i hi, byte_invSubBytes _ i hi, sbox_sinv]

/-- A place of ShiftRows (R86). -/
theorem cell_shiftRows (s : Block) (r c : Nat) (hr : r < 4) (hc : c < 4) :
    cell (shiftRows s) r c = cell s r ((c + r) % 4) := by
  have hrow : (4 * c + r) % 4 = r := by omega
  have hcol : (4 * c + r) / 4 = c := by omega
  rw [cell, shiftRows, byte_ofByteFn _ _ (by omega), hrow, hcol]

/-- A place of InvShiftRows (R87). -/
theorem cell_invShiftRows (s : Block) (r c : Nat) (hr : r < 4) (hc : c < 4) :
    cell (invShiftRows s) r c = cell s r ((c + 4 - r) % 4) := by
  have hrow : (4 * c + r) % 4 = r := by omega
  have hcol : (4 * c + r) / 4 = c := by omega
  rw [cell, invShiftRows, byte_ofByteFn _ _ (by omega), hrow, hcol]

/-- A 128-bit value is the places of its matrix (R3, R4). -/
theorem block_ext_cell (s t : Block) (h : ∀ r c, r < 4 → c < 4 → cell s r c = cell t r c) : s = t :=
  block_ext s t fun i hi => by
    simpa [cell, Nat.div_add_mod] using h (i % 4) (i / 4) (by omega) (by omega)

theorem invShiftRows_shiftRows (s : Block) : invShiftRows (shiftRows s) = s :=
  block_ext_cell _ _ fun r c hr hc => by
    rw [cell_invShiftRows _ r c hr hc, cell_shiftRows _ r _ hr (by omega),
      show ((c + 4 - r) % 4 + r) % 4 = c by omega]

theorem shiftRows_invShiftRows (s : Block) : shiftRows (invShiftRows s) = s :=
  block_ext_cell _ _ fun r c hr hc => by
    rw [cell_shiftRows _ r c hr hc, cell_invShiftRows _ r _ hr (by omega),
      show ((c + r) % 4 + 4 - r) % 4 = c by omega]

/-! MixColumns: a column times a circulant matrix. -/

/-- The circulant matrix with first row `k0 k1 k2 k3`, on one column (R88, R90). -/
def circulant (k0 k1 k2 k3 : Byte) (a : Word) : Word :=
  ofWordBytes (mixRow k0 k1 k2 k3 a) (mixRow k3 k0 k1 k2 a) (mixRow k2 k3 k0 k1 a)
    (mixRow k1 k2 k3 k0 a)

theorem mixColumn_eq_circulant (a : Word) :
    mixColumn a = circulant 0x02#8 0x03#8 0x01#8 0x01#8 a := rfl

theorem invMixColumn_eq_circulant (a : Word) :
    invMixColumn a = circulant 0x0E#8 0x0B#8 0x0D#8 0x09#8 a := rfl

/-- A row against a column given by its bytes. -/
theorem mixRow_ofWordBytes (k0 k1 k2 k3 w0 w1 w2 w3 : Byte) :
    mixRow k0 k1 k2 k3 (ofWordBytes w0 w1 w2 w3) =
      gmul k0 w0 ^^^ gmul k1 w1 ^^^ gmul k2 w2 ^^^ gmul k3 w3 := by
  obtain ⟨h0, h1, h2, h3⟩ := wordByte_ofWordBytes w0 w1 w2 w3
  rw [mixRow, h0, h1, h2, h3]

/-- A row against a column that a circulant matrix gives: the row times the matrix, against the
column. -/
theorem mixRow_circulant (k0 k1 k2 k3 m0 m1 m2 m3 : Byte) (a : Word) :
    mixRow k0 k1 k2 k3 (circulant m0 m1 m2 m3 a) =
      mixRow (mixRow k0 k1 k2 k3 (ofWordBytes m0 m3 m2 m1))
        (mixRow k0 k1 k2 k3 (ofWordBytes m1 m0 m3 m2))
        (mixRow k0 k1 k2 k3 (ofWordBytes m2 m1 m0 m3))
        (mixRow k0 k1 k2 k3 (ofWordBytes m3 m2 m1 m0)) a := by
  simp only [circulant, mixRow_ofWordBytes]
  simp only [mixRow, gmul_xor_left, gmul_xor_right, gmul_assoc]
  ac_rfl

/-- The product of two circulant matrices is circulant: its first row is the first row of one times the
other. -/
theorem circulant_circulant (k0 k1 k2 k3 m0 m1 m2 m3 : Byte) (a : Word) :
    circulant k0 k1 k2 k3 (circulant m0 m1 m2 m3 a) =
      circulant (mixRow k0 k1 k2 k3 (ofWordBytes m0 m3 m2 m1))
        (mixRow k0 k1 k2 k3 (ofWordBytes m1 m0 m3 m2))
        (mixRow k0 k1 k2 k3 (ofWordBytes m2 m1 m0 m3))
        (mixRow k0 k1 k2 k3 (ofWordBytes m3 m2 m1 m0)) a := by
  rw [circulant]
  simp only [mixRow_circulant]
  simp only [circulant, mixRow_ofWordBytes]
  ac_rfl

/-- The identity matrix. -/
theorem circulant_one (a : Word) : circulant 0x01#8 0x00#8 0x00#8 0x00#8 a = a := by
  simpa [circulant, mixRow] using ofWordBytes_wordByte a

/-- The matrices of R88 and R90 have the identity as product. -/
theorem invMixColumn_mixColumn (a : Word) : invMixColumn (mixColumn a) = a := by
  have hcoefficients : mixRow 0x0E#8 0x0B#8 0x0D#8 0x09#8 (ofWordBytes 0x02#8 0x01#8 0x01#8 0x03#8) =
        0x01#8 ∧
      mixRow 0x0E#8 0x0B#8 0x0D#8 0x09#8 (ofWordBytes 0x03#8 0x02#8 0x01#8 0x01#8) = 0x00#8 ∧
      mixRow 0x0E#8 0x0B#8 0x0D#8 0x09#8 (ofWordBytes 0x01#8 0x03#8 0x02#8 0x01#8) = 0x00#8 ∧
      mixRow 0x0E#8 0x0B#8 0x0D#8 0x09#8 (ofWordBytes 0x01#8 0x01#8 0x03#8 0x02#8) = 0x00#8 := by
    decide
  obtain ⟨h0, h1, h2, h3⟩ := hcoefficients
  rw [mixColumn_eq_circulant, invMixColumn_eq_circulant, circulant_circulant, h0, h1, h2, h3,
    circulant_one]

/-- Circulant matrices commute, since the product of bytes does. -/
theorem circulant_comm (k0 k1 k2 k3 m0 m1 m2 m3 : Byte) (a : Word) :
    circulant k0 k1 k2 k3 (circulant m0 m1 m2 m3 a) =
      circulant m0 m1 m2 m3 (circulant k0 k1 k2 k3 a) := by
  simp only [circulant_circulant, mixRow_ofWordBytes, gmul_comm m0, gmul_comm m1, gmul_comm m2,
    gmul_comm m3]
  ac_rfl

theorem mixColumn_invMixColumn (a : Word) : mixColumn (invMixColumn a) = a := by
  have hcomm : mixColumn (invMixColumn a) = invMixColumn (mixColumn a) :=
    circulant_comm 0x02#8 0x03#8 0x01#8 0x01#8 0x0E#8 0x0B#8 0x0D#8 0x09#8 a
  rw [hcomm, invMixColumn_mixColumn]

theorem invMixColumns_mixColumns (s : Block) : invMixColumns (mixColumns s) = s :=
  block_ext_col _ _ fun c hc => by
    rw [col_invMixColumns _ c hc, col_mixColumns _ c hc, invMixColumn_mixColumn]

theorem mixColumns_invMixColumns (s : Block) : mixColumns (invMixColumns s) = s :=
  block_ext_col _ _ fun c hc => by
    rw [col_mixColumns _ c hc, col_invMixColumns _ c hc, mixColumn_invMixColumn]

/-! AddRoundKey (R92). -/

theorem addRoundKey_addRoundKey (s k : Block) : addRoundKey (addRoundKey s k) k = s := by
  rw [addRoundKey, addRoundKey, BitVec.xor_assoc, BitVec.xor_self, BitVec.xor_zero]

/-- Settles O58: the transforms by bytes, by places and by columns. -/
theorem everyTransformHasItsInverse : Obligations.EveryTransformHasItsInverse := by
  unfold Obligations.EveryTransformHasItsInverse
  exact fun s k => ⟨invSubBytes_subBytes s, subBytes_invSubBytes s, invShiftRows_shiftRows s,
    shiftRows_invShiftRows s, invMixColumns_mixColumns s, mixColumns_invMixColumns s,
    addRoundKey_addRoundKey s k⟩

end Sys2Proof.Machine

/-! PROOF. The key schedule (42_key_expansion.md): the round word byte by byte, a round key column by
column, and EXPAND. -/

namespace Sys2Proof.Machine

/-! The round word (R79 to R81). -/

theorem wordByte_xor (a b : Word) (j : Nat) :
    wordByte (a ^^^ b) j = wordByte a j ^^^ wordByte b j :=
  BitVec.extractLsb'_xor

/-- `rol` turns a word left by one byte (R79). -/
theorem wordByte_rol (w : Word) :
    wordByte (rol w) 0 = wordByte w 1 ∧ wordByte (rol w) 1 = wordByte w 2 ∧
      wordByte (rol w) 2 = wordByte w 3 ∧ wordByte (rol w) 3 = wordByte w 0 :=
  wordByte_ofWordBytes _ _ _ _

/-- `ssub` puts each byte of a word through SBOX (R80). -/
theorem wordByte_ssub (w : Word) (j : Nat) (hj : j < 4) :
    wordByte (ssub w) j = sbox (wordByte w j) := by
  obtain ⟨h0, h1, h2, h3⟩ := wordByte_ofWordBytes (sbox (wordByte w 0)) (sbox (wordByte w 1))
    (sbox (wordByte w 2)) (sbox (wordByte w 3))
  match j, hj with
  | 0, _ => exact h0
  | 1, _ => exact h1
  | 2, _ => exact h2
  | 3, _ => exact h3

/-- The round word: the last word's bytes, turned and through SBOX, with the round constant on the
first (R81). -/
theorem wordByte_roundWord (i : Nat) (w : Word) :
    wordByte (roundWord i w) 0 = sbox (wordByte w 1) ^^^ rcon (i - 1) ∧
      wordByte (roundWord i w) 1 = sbox (wordByte w 2) ∧
      wordByte (roundWord i w) 2 = sbox (wordByte w 3) ∧
      wordByte (roundWord i w) 3 = sbox (wordByte w 0) := by
  obtain ⟨r0, r1, r2, r3⟩ := wordByte_rol w
  obtain ⟨c0, c1, c2, c3⟩ := wordByte_ofWordBytes (rcon (i - 1)) 0x00#8 0x00#8 0x00#8
  simp [roundWord, wordByte_xor, wordByte_ssub, r0, r1, r2, r3, c0, c1, c2, c3]

/-! A round key by columns (R82, R83). -/

/-- Column `c` of `KeyRound(i, p)`, along the chain of R82. -/
def keyRoundCol (i : Nat) (p : Block) : Nat → Word
  | 0 => col p 0 ^^^ roundWord i (col p 3)
  | c + 1 => keyRoundCol i p c ^^^ col p (c + 1)

theorem col_keyRound (i : Nat) (p : Block) (c : Nat) (hc : c < 4) :
    col (keyRound i p) c = keyRoundCol i p c :=
  col_ofColFn (keyRoundCol i p) c hc

/-- The chain starts with the round word of the last word before. -/
theorem col_keyRound_zero (i : Nat) (p : Block) :
    col (keyRound i p) 0 = col p 0 ^^^ roundWord i (col p 3) :=
  col_keyRound i p 0 (by decide)

/-- The chain goes on with the words before. -/
theorem col_keyRound_succ (i : Nat) (p : Block) (c : Nat) (hc : c < 3) :
    col (keyRound i p) (c + 1) = col (keyRound i p) c ^^^ col p (c + 1) := by
  rw [col_keyRound i p (c + 1) (by omega), col_keyRound i p c (by omega), keyRoundCol]

/-- Each later round key is a round of the one before (R83). -/
theorem keyExpansion_succ (k : Block) (i : Nat) (hi : i + 1 < 11) :
    (keyExpansion k)[i + 1] = keyRound (i + 1) (keyExpansion k)[i] := by
  rw [keyExpansion_getElem, keyExpansion_getElem, roundKey]

/-- Settles O60: a later round key is `keyRound` of the one before, whose first column takes the bytes of
the round word. -/
theorem keyScheduleIsTheChainOfRoundWords : Obligations.KeyScheduleIsTheChainOfRoundWords := by
  unfold Obligations.KeyScheduleIsTheChainOfRoundWords
  refine ⟨wordByte_rol, wordByte_ssub, fun k i => ⟨keyExpansion_getElem k 0 (by decide), ?_⟩⟩
  rintro p n rfl rfl
  rw [keyExpansion_succ]
  generalize (keyExpansion k)[i.val] = p
  obtain ⟨h0, h1, h2, h3⟩ := wordByte_roundWord (i + 1) (col p 3)
  rw [Nat.add_sub_cancel] at h0
  simp only [col_keyRound_zero, wordByte_xor, h0, h1, h2, h3, true_and]
  exact col_keyRound_succ (i + 1) p

/-! EXPAND (R85). -/

/-- While idle EXPAND is accepted whatever KV is: it needs no schedule and has no operand (R129). -/
theorem exec_expand_of_idle (s : State) (hb : s.busy = false) :
    exec .expand s =
      .next (((s.setECode .none).noteRead s.key).writeSchedule s.key.value) := by
  have hc : s.check (.ok .expand) = .none := (s.check_ok_eq_none_iff _).2 ⟨hb, nofun, rfl⟩
  exact congrArg Host.Outcome.next (s.issue_of_accepted _ _ hc)

/-- While BUSY EXPAND is rejected (R129, R131). -/
theorem exec_expand_of_busy (s : State) (hb : s.busy = true) :
    exec .expand s = .next (s.reject .busy) := by
  have hc : s.check (.ok .expand) = .busy := s.check_busy _ hb
  rw [← hc]
  exact congrArg Host.Outcome.next (s.issue_of_rejected _ _ (by simp [hc]))

/-- Settles O15: an accepted EXPAND writes the registers of the schedule, a rejected one ECODE. -/
theorem expandBuildsTheWholeSchedule : Obligations.ExpandBuildsTheWholeSchedule := by
  unfold Obligations.ExpandBuildsTheWholeSchedule
  refine fun s => ⟨fun hb => ⟨_, exec_expand_of_idle s hb, fun i => ?_, rfl, rfl, rfl, rfl,
    ⟨rfl, rfl, rfl, rfl⟩, ⟨rfl, rfl, rfl⟩, rfl⟩, exec_expand_of_busy s⟩
  simp only [State.writeSchedule_rk, Fin.getElem_fin, scheduleRegs_getElem, keyExpansion_getElem]

/-- Settles O36: neither the writing of the schedule nor that of ECODE touches anything else. -/
theorem expandFrame : Obligations.ExpandFrame := by
  unfold Obligations.ExpandFrame
  intro s t h
  cases hb : s.busy
  case false =>
    cases (exec_expand_of_idle s hb).symm.trans h
    exact ⟨rfl, rfl, ⟨rfl, rfl, rfl, rfl⟩, rfl, rfl, rfl⟩
  case true =>
    cases (exec_expand_of_busy s hb).symm.trans h
    obtain ⟨⟨hkey, -, -⟩, hrun, hhost⟩ := s.setECode_frame .busy
    exact ⟨hkey, rfl, hrun, hhost⟩

end Sys2Proof.Machine

/-! PROOF. The round-transform commands (43_round_transforms.md): the row shifts place by place and on flat
byte indices, the column mixes byte by byte, and ADD_ROUND_KEY accepted and turned away. -/

namespace Sys2Proof.Machine

/-! The column mixes (R95, R96). -/

/-- The four bytes of a column that a circulant matrix gives, row by row (R88, R90). -/
theorem wordByte_circulant (k0 k1 k2 k3 : Byte) (a : Word) :
    wordByte (circulant k0 k1 k2 k3 a) 0 = mixRow k0 k1 k2 k3 a ∧
      wordByte (circulant k0 k1 k2 k3 a) 1 = mixRow k3 k0 k1 k2 a ∧
      wordByte (circulant k0 k1 k2 k3 a) 2 = mixRow k2 k3 k0 k1 a ∧
      wordByte (circulant k0 k1 k2 k3 a) 3 = mixRow k1 k2 k3 k0 a :=
  wordByte_ofWordBytes _ _ _ _

/-- Settles O20: both commands are accepted while idle, and each column goes through its circulant
matrix, whose rows are `mixRow`. -/
theorem mixColumnsCommandsMixEachColumn : Obligations.MixColumnsCommandsMixEachColumn := by
  unfold Obligations.MixColumnsCommandsMixEachColumn
  intro s hb
  refine ⟨?mix, ?invMix, ?bytes⟩
  case mix => exact congrArg Host.Outcome.next (s.issue_mapState_of_idle .mixColumns _ (by simp) hb)
  case invMix =>
    exact congrArg Host.Outcome.next (s.issue_mapState_of_idle .invMixColumns _ (by simp) hb)
  case bytes =>
    rintro v c hc _ _ _ _ rfl rfl rfl rfl
    rw [col_mixColumns v c hc, col_invMixColumns v c hc, mixColumn_eq_circulant,
      invMixColumn_eq_circulant]
    obtain ⟨m0, m1, m2, m3⟩ := wordByte_circulant 0x02#8 0x03#8 0x01#8 0x01#8 (col v c)
    exact ⟨m0, m1, m2, m3, wordByte_circulant 0x0E#8 0x0B#8 0x0D#8 0x09#8 (col v c)⟩

/-! The row shifts (R93, R94). -/

/-- Settles O19: both commands are accepted while idle; InvShiftRows looks back by `r`, so that of the place
`r` to the right it gives the place itself. -/
theorem shiftRowsCommandsRotateTheRows : Obligations.ShiftRowsCommandsRotateTheRows := by
  unfold Obligations.ShiftRowsCommandsRotateTheRows
  intro s hb
  refine ⟨?shift, ?invShift, fun v r c hr hc => ⟨cell_shiftRows v r c hr hc, ?back⟩⟩
  case shift => exact congrArg Host.Outcome.next (s.issue_mapState_of_idle .shiftRows _ (by simp) hb)
  case invShift =>
    exact congrArg Host.Outcome.next (s.issue_mapState_of_idle .invShiftRows _ (by simp) hb)
  case back =>
    have hcol : ((c + r) % 4 + 4 - r) % 4 = c := by omega
    rw [cell_invShiftRows v r _ hr (by omega), hcol]

/-- Byte `i` of ShiftRows, by the flat index of its place (R4, R86). -/
theorem byte_shiftRows (s : Block) (i : Nat) (hi : i < 16) :
    byte (shiftRows s) i = byte s (4 * ((i / 4 + i % 4) % 4) + i % 4) :=
  byte_ofByteFn _ i hi

/-- Byte `i` of InvShiftRows, by the flat index of its place (R4, R87). -/
theorem byte_invShiftRows (s : Block) (i : Nat) (hi : i < 16) :
    byte (invShiftRows s) i = byte s (4 * ((i / 4 + 4 - i % 4) % 4) + i % 4) :=
  byte_ofByteFn _ i hi

/-- Settles O59: the tables P and Q list the flat indices of the places, for the sixteen bytes. -/
theorem shiftRowsMovesBytesByItsTable : Obligations.ShiftRowsMovesBytesByItsTable := by
  unfold Obligations.ShiftRowsMovesBytesByItsTable
  intro s i hi
  have tables : ∀ j < 16,
      4 * ((j / 4 + j % 4) % 4) + j % 4 =
        ([0, 5, 10, 15, 4, 9, 14, 3, 8, 13, 2, 7, 12, 1, 6, 11] : List Nat).getD j 0 ∧
      4 * ((j / 4 + 4 - j % 4) % 4) + j % 4 =
        ([0, 13, 10, 7, 4, 1, 14, 11, 8, 5, 2, 15, 12, 9, 6, 3] : List Nat).getD j 0 := by
    decide
  obtain ⟨hP, hQ⟩ := tables i hi
  rw [byte_shiftRows s i hi, byte_invShiftRows s i hi, hP, hQ]
  exact ⟨rfl, rfl⟩

/-! ADD_ROUND_KEY (R97). -/

/-- Settles O21: the command is accepted, and its operand names `RK[n]`. -/
theorem addRoundKeyXorsTheNamedRoundKey : Obligations.AddRoundKeyXorsTheNamedRoundKey := by
  unfold Obligations.AddRoundKeyXorsTheNamedRoundKey
  intro s n hb hkv
  have hc : s.check (.ok (.addRoundKey (BitVec.ofNat 4 n))) = .none :=
    (s.check_ok_eq_none_iff _).2 ⟨hb, fun _ => hkv, namesNoRoundKey_addRoundKey_ofNat n⟩
  rw [← s.roundKeyReg_ofNat n]
  exact congrArg Host.Outcome.next (s.issue_of_accepted _ _ hc)

/-- ADD_ROUND_KEY whose check fails writes the code of the check and nothing else (R131). -/
theorem exec_addRoundKey_of_rejected (s : State) (n : BitVec 4) (e : ECode)
    (hc : s.check (.ok (.addRoundKey n)) = e) (he : e ≠ .none) :
    exec (.addRoundKey n) s = .next (s.reject e) := by
  subst hc
  exact congrArg Host.Outcome.next (s.issue_of_rejected _ _ he)

/-- The checks of ADD_ROUND_KEY while idle: first KV, then the operand (R129). -/
theorem State.check_addRoundKey_of_idle (s : State) (n : BitVec 4) (hb : s.busy = false) :
    s.check (.ok (.addRoundKey n)) =
      if s.kv = false then .noSchedule else if 10 < n.toNat then .badRound else .none := by
  simp [s.check_ok _ hb, needsSchedule, namesNoRoundKey]

/-- Settles O22: each check that fails gives its code, the earlier one first. -/
theorem addRoundKeyIsTurnedAwayInOrder : Obligations.AddRoundKeyIsTurnedAwayInOrder := by
  unfold Obligations.AddRoundKeyIsTurnedAwayInOrder
  refine fun s n => ⟨fun hb => ?busy, fun hb hkv => ?noSchedule, fun hb hkv hn => ?badRound⟩
  case busy => exact exec_addRoundKey_of_rejected s n .busy (s.check_busy _ hb) nofun
  case noSchedule =>
    have hc : s.check (.ok (.addRoundKey n)) = .noSchedule := by
      rw [s.check_addRoundKey_of_idle n hb, if_pos hkv]
    exact exec_addRoundKey_of_rejected s n .noSchedule hc nofun
  case badRound =>
    have hc : s.check (.ok (.addRoundKey n)) = .badRound := by
      rw [s.check_addRoundKey_of_idle n hb, if_neg (by simp [hkv]), if_pos hn]
    exact exec_addRoundKey_of_rejected s n .badRound hc nofun

end Sys2Proof.Machine

/-! PROOF. NOP, ENCRYPT and DECRYPT (44_cipher.md, section 3): the accepted command, and the
rejected ones. -/

namespace Sys2Proof.Machine

/-! NOP (R112). -/

/-- While idle NOP is accepted whatever KV is (R129). -/
theorem exec_nop_of_idle (s : State) (hb : s.busy = false) :
    exec .nop s = .next (s.setECode .none) := by
  have hc : s.check (.ok .nop) = .none := (s.check_ok_eq_none_iff _).2 ⟨hb, nofun, rfl⟩
  exact congrArg Host.Outcome.next (s.issue_of_accepted _ _ hc)

/-- While BUSY NOP is rejected (R129, R131). -/
theorem exec_nop_of_busy (s : State) (hb : s.busy = true) :
    exec .nop s = .next (s.reject .busy) := by
  have hc : s.check (.ok .nop) = .busy := s.check_busy _ hb
  rw [← hc]
  exact congrArg Host.Outcome.next (s.issue_of_rejected _ _ (by simp [hc]))

/-- NOP's operation code with an operand that is not 0 is RESERVED (R55). -/
theorem decodeCommand_nop_variant (n : BitVec 4) (hn : n ≠ 0#4) :
    decodeCommand (n ++ 0x0#4) = .error .reservedCommand := by
  revert n
  decide

/-- Settles O14: the check of NOP asks for an idle block only, and its variants fail as RESERVED bytes. -/
theorem nopClearsTheErrorCode : Obligations.NopClearsTheErrorCode := by
  unfold Obligations.NopClearsTheErrorCode
  refine fun s => ⟨exec_nop_of_idle s, exec_nop_of_busy s, fun n hn => ?variant⟩
  have hres := decodeCommand_nop_variant n hn
  refine ⟨hres, fun hb => ?_⟩
  rw [exec_wr_cmdIdx, writeCmd_of_error _ _ s hres, s.check_error _ hb]
  rfl

/-! ENCRYPT and DECRYPT (R113, R114). -/

/-- Both commands start a run, one in each direction. -/
theorem exec_startCommand (d : Dir) (s : State) :
    exec (startCommand d) s =
      .next (s.issue (.ok (startCommand d)) fun t => t.startRun d (firstRound d)) := by
  cases d <;> rfl

/-- The checks of both commands while idle: KV alone (R129). -/
theorem State.check_startCommand_of_idle (s : State) (d : Dir) (hb : s.busy = false) :
    s.check (.ok (startCommand d)) = if s.kv = false then .noSchedule else .none := by
  cases d <;> simp [s.check_ok _ hb, startCommand, needsSchedule, namesNoRoundKey]

/-- An accepted start of a run: ECODE <- 0, DIR, PHASE <- INIT, ROUND and BUSY <- 1. -/
theorem exec_startCommand_of_accepted (d : Dir) (s : State) (hb : s.busy = false)
    (hkv : s.kv = true) :
    exec (startCommand d) s = .next ((s.setECode .none).startRun d (firstRound d)) := by
  have hc : s.check (.ok (startCommand d)) = .none := by
    rw [s.check_startCommand_of_idle d hb, if_neg (by simp [hkv])]
  rw [exec_startCommand, s.issue_of_accepted _ _ hc]

/-- Without a schedule no run starts (R129). -/
theorem exec_startCommand_of_noSchedule (d : Dir) (s : State) (hb : s.busy = false)
    (hkv : s.kv = false) : exec (startCommand d) s = .next (s.reject .noSchedule) := by
  have hc : s.check (.ok (startCommand d)) = .noSchedule := by
    rw [s.check_startCommand_of_idle d hb, if_pos hkv]
  rw [exec_startCommand, s.issue_of_rejected _ _ (by simp [hc]), hc]

/-- While a run is going no other starts (R129). -/
theorem exec_startCommand_of_busy (d : Dir) (s : State) (hb : s.busy = true) :
    exec (startCommand d) s = .next (s.reject .busy) := by
  have hc : s.check (.ok (startCommand d)) = .busy := s.check_busy _ hb
  rw [exec_startCommand, s.issue_of_rejected _ _ (by simp [hc]), hc]

/-- Settles O16: the start of a run in the direction of ENCRYPT, and the two rejections. -/
theorem encryptStartsTheForwardRun : Obligations.EncryptStartsTheForwardRun := by
  unfold Obligations.EncryptStartsTheForwardRun
  exact fun s => ⟨exec_startCommand_of_accepted .encrypt s,
    exec_startCommand_of_noSchedule .encrypt s, exec_startCommand_of_busy .encrypt s⟩

/-- Settles O17: the start of a run in the direction of DECRYPT, and the two rejections. -/
theorem decryptStartsTheInverseRun : Obligations.DecryptStartsTheInverseRun := by
  unfold Obligations.DecryptStartsTheInverseRun
  exact fun s => ⟨exec_startCommand_of_accepted .decrypt s,
    exec_startCommand_of_noSchedule .decrypt s, exec_startCommand_of_busy .decrypt s⟩

/-- Settles O37: the start of a run writes DIR, PHASE, ROUND and BUSY, and ECODE is all that the check
writes. -/
theorem runStartFrame : Obligations.RunStartFrame := by
  unfold Obligations.RunStartFrame
  intro i s t hi h
  obtain ⟨d, rfl⟩ : ∃ d, i = startCommand d := hi.elim (⟨.encrypt, ·⟩) (⟨.decrypt, ·⟩)
  rw [exec_startCommand] at h
  cases h
  obtain ⟨-, heq⟩ | ⟨-, heq⟩ := s.issue_cases (.ok (startCommand d)) fun t =>
    t.startRun d (firstRound d)
  case inl | inr => rw [heq]; exact ⟨⟨rfl, rfl, rfl⟩, ⟨rfl, rfl, rfl⟩, rfl, rfl⟩

end Sys2Proof.Machine

/-! PROOF. The sequencer (44_cipher.md, section 2): its table forwards, the six steps in full,
and their frame. -/

namespace Sys2Proof.Machine

/-! The table of R101. -/

/-- The step of R101's table for a phase and a direction, wherever its row asks ROUND to stand. -/
def tableStep : Phase → Dir → State → State
  | .idle, _ => id
  | .init, .encrypt => encInitialStep
  | .rnd, .encrypt => encRoundStep
  | .final, .encrypt => encFinalStep
  | .init, .decrypt => decInitialStep
  | .rnd, .decrypt => decRoundStep
  | .final, .decrypt => decFinalStep

/-- While BUSY the sequencer runs the table's step in the positions of the table, and in no other. -/
theorem sequencerStep_of_busy (s : State) (hb : s.busy = true) :
    sequencerStep s =
      if runPosition s.phase s.dir s.round then .next (tableStep s.phase s.dir s)
      else .fault .unreachable := by
  unfold sequencerStep busyStep
  cases hp : s.phase <;> cases hd : s.dir <;> simp [hb, runPosition, tableStep]
  case rnd.encrypt | rnd.decrypt => rfl

/-- The step from a position of the table. -/
theorem sequencerStep_of_runPosition {s : State} {p : Phase} {d : Dir} {r : BitVec 4}
    (hb : s.busy = true) (hp : s.phase = p) (hd : s.dir = d) (hr : s.round = r)
    (h : runPosition p d r = true) : sequencerStep s = .next (tableStep p d s) := by
  rw [sequencerStep_of_busy s hb, hp, hd, hr, if_pos h]

/-- Settles O44: the table decides the step. -/
theorem sequencerStepsExactlyInItsTable : Obligations.SequencerStepsExactlyInItsTable := by
  unfold Obligations.SequencerStepsExactlyInItsTable
  refine fun s => ⟨fun hb => ?idle, fun hb h => ?inTable, fun hb h => ?outside⟩
  case idle => rw [sequencerStep, if_neg (by simp [hb])]
  case inTable => exact ⟨_, sequencerStep_of_runPosition hb rfl rfl rfl h⟩
  case outside => rw [sequencerStep_of_busy s hb, if_neg (by simp [h])]

/-- Settles O45: a step of a run writes STATE and the position, and an idle turn nothing. -/
theorem sequencerFrame : Obligations.SequencerFrame := by
  unfold Obligations.SequencerFrame
  intro s t h
  obtain ⟨hkey, hdir⟩ := sequencerStep_sameKey s t h
  obtain ⟨-, rfl⟩ | ⟨-, hrun⟩ := sequencerStep_runStep s t h
  · exact ⟨hkey, hdir, rfl, rfl, rfl, rfl⟩
  · cases hrun <;> exact ⟨hkey, hdir, rfl, rfl, rfl, rfl⟩

/-! The steps in full (R103 to R108). -/

/-- STATE through a round with `RK[ROUND]`, where ROUND counts to `r`. -/
theorem State.mapStateWithKey_of_round (s : State) (f : Block → Block → Block) (r : Fin 11)
    (hr : s.round = BitVec.ofNat 4 r) :
    s.mapStateWithKey f s.round = { s with
      state := Reg.of (f s.state.value s.rk[r].value),
      uninit := s.uninit || !s.state.written || !s.rk[r].written } := by
  have hreg : s.roundKeyReg s.round = s.rk[r] := by rw [hr, s.roundKeyReg_ofNat]
  rw [State.mapStateWithKey, hreg]
  rfl

/-- After a round of the cipher ROUND counts up, and round 9 is the last middle one (R104). -/
theorem encRoundStep_eq (s : State) :
    encRoundStep s = (s.mapStateWithKey encRound s.round).setPosition
      (if s.round = 9#4 then .final else .rnd) (s.round + 1#4) := by
  unfold encRoundStep
  split
  next h => rw [h]; rfl
  next => rfl

/-- After a round of the inverse cipher ROUND counts down, and round 1 is the last middle one (R107). -/
theorem decRoundStep_eq (s : State) :
    decRoundStep s = (s.mapStateWithKey decRound s.round).setPosition
      (if s.round = 1#4 then .final else .rnd) (s.round - 1#4) := by
  unfold decRoundStep
  split
  next h => rw [h]; rfl
  next => rfl

/-- A ROUND that counts to a middle round stands on one (R101). -/
theorem isMiddleRound_ofNat (r : Nat) (h1 : 1 ≤ r) (h9 : r ≤ 9) :
    isMiddleRound (BitVec.ofNat 4 r) = true := by
  have hr : (BitVec.ofNat 4 r).toNat = r := by rw [BitVec.toNat_ofNat, Nat.mod_eq_of_lt (by omega)]
  simp [isMiddleRound, hr, h1, h9]

/-- ROUND counts to a number below 16 exactly where it is that number. -/
theorem ofNat_four_eq_iff (m n : Nat) (hm : m < 16) (hn : n < 16) :
    BitVec.ofNat 4 m = BitVec.ofNat 4 n ↔ m = n := by
  rw [← BitVec.toNat_inj, BitVec.toNat_ofNat, BitVec.toNat_ofNat, Nat.mod_eq_of_lt hm,
    Nat.mod_eq_of_lt hn]

/-- Settles O42: the table's step, with ROUND read off the position. -/
theorem encryptStepsAreTheForwardRounds : Obligations.EncryptStepsAreTheForwardRounds := by
  unfold Obligations.EncryptStepsAreTheForwardRounds
  refine fun s hb hd => ⟨fun hp hr => ?init, fun r h1 h9 hp hr => ?rnd, fun hp hr => ?final⟩
  case init =>
    rw [sequencerStep_of_runPosition hb hp hd hr rfl, tableStep, encInitialStep,
      s.mapStateWithKey_of_round _ 0 hr]
    rfl
  case rnd =>
    rw [sequencerStep_of_runPosition hb hp hd hr (isMiddleRound_ofNat r h1 h9), tableStep,
      encRoundStep_eq, s.mapStateWithKey_of_round _ r hr, hr, ← BitVec.ofNat_add]
    simp only [ofNat_four_eq_iff r.val 9 (by omega) (by decide)]
    rfl
  case final =>
    rw [sequencerStep_of_runPosition hb hp hd hr rfl, tableStep, encFinalStep,
      s.mapStateWithKey_of_round _ 10 hr]
    rfl

/-- Settles O43: the table's step, with ROUND read off the position. -/
theorem decryptStepsAreTheInverseRounds : Obligations.DecryptStepsAreTheInverseRounds := by
  unfold Obligations.DecryptStepsAreTheInverseRounds
  refine fun s hb hd => ⟨fun hp hr => ?init, fun r h1 h9 hp hr => ?rnd, fun hp hr => ?final⟩
  case init =>
    rw [sequencerStep_of_runPosition hb hp hd hr rfl, tableStep, decInitialStep,
      s.mapStateWithKey_of_round _ 10 hr]
    rfl
  case rnd =>
    have hround : BitVec.ofNat 4 r - 1#4 = BitVec.ofNat 4 (r - 1) :=
      BitVec.ofNat_sub_ofNat_of_le r.val 1 (by decide) h1
    rw [sequencerStep_of_runPosition hb hp hd hr (isMiddleRound_ofNat r h1 h9), tableStep,
      decRoundStep_eq, s.mapStateWithKey_of_round _ r hr, hr, hround]
    simp only [ofNat_four_eq_iff r.val 1 (by omega) (by decide)]
    rfl
  case final =>
    rw [sequencerStep_of_runPosition hb hp hd hr rfl, tableStep, decFinalStep,
      s.mapStateWithKey_of_round _ 0 hr]
    rfl

end Sys2Proof.Machine

/-! PROOF. The cipher and its inverse undo each other (44_cipher.md, section 1): each round of the one
takes back the round of the other, half a round out of step. -/

namespace Sys2Proof.Machine

/-- SubBytes and ShiftRows, as every round of the cipher starts (R98). -/
def subShift (s : Block) : Block := shiftRows (subBytes s)

/-- InvShiftRows and InvSubBytes, as every round of the inverse cipher starts (R99). -/
def invSubShift (s : Block) : Block := invSubBytes (invShiftRows s)

@[simp] theorem invSubShift_subShift (s : Block) : invSubShift (subShift s) = s := by
  rw [invSubShift, subShift, invShiftRows_shiftRows, invSubBytes_subBytes]

@[simp] theorem subShift_invSubShift (s : Block) : subShift (invSubShift s) = s := by
  rw [invSubShift, subShift, subBytes_invSubBytes, shiftRows_invShiftRows]

theorem encRound_eq (s k : Block) : encRound s k = addRoundKey (mixColumns (subShift s)) k := rfl

theorem encFinal_eq (s k : Block) : encFinal s k = addRoundKey (subShift s) k := rfl

theorem decRound_eq (s k : Block) : decRound s k = invMixColumns (addRoundKey (invSubShift s) k) := rfl

theorem decFinal_eq (s k : Block) : decFinal s k = addRoundKey (invSubShift s) k := rfl

/-- From behind the next round's SubBytes and ShiftRows, an inverse round goes back to behind this
round's. -/
theorem decRound_subShift_encRound (s k : Block) :
    decRound (subShift (encRound s k)) k = subShift s := by
  rw [decRound_eq, invSubShift_subShift, encRound_eq, addRoundKey_addRoundKey,
    invMixColumns_mixColumns]

/-- From behind the next inverse round's start, a round goes back to behind this inverse round's. -/
theorem encRound_invSubShift_decRound (s k : Block) :
    encRound (invSubShift (decRound s k)) k = invSubShift s := by
  rw [encRound_eq, subShift_invSubShift, decRound_eq, mixColumns_invMixColumns,
    addRoundKey_addRoundKey]

/-- If `g` takes back `f` from behind `u`, a fold of `g` backwards takes back a fold of `f`. -/
theorem foldl_reverse_foldl {ι : Type} (u : Block → Block) (f g : Block → ι → Block)
    (h : ∀ s i, g (u (f s i)) i = u s) (l : List ι) (s : Block) :
    l.reverse.foldl g (u (l.foldl f s)) = u s := by
  induction l generalizing s with
  | nil => rfl
  | cons i l ih =>
    rw [List.reverse_cons, List.foldl_append, List.foldl_cons, List.foldl_nil, List.foldl_cons, ih]
    exact h s i

theorem invCipher_cipher (s : Block) (rk : Vector Block 11) : invCipher (cipher s rk) rk = s := by
  have hrounds := foldl_reverse_foldl subShift (fun s (r : Fin 11) => encRound s rk[r])
    (fun s r => decRound s rk[r]) (fun s r => decRound_subShift_encRound s rk[r]) middleRounds
    (addRoundKey s rk[0])
  rw [invCipher, cipher, encFinal_eq, addRoundKey_addRoundKey, hrounds, decFinal_eq,
    invSubShift_subShift, addRoundKey_addRoundKey]

theorem cipher_invCipher (s : Block) (rk : Vector Block 11) : cipher (invCipher s rk) rk = s := by
  have hrounds := foldl_reverse_foldl invSubShift (fun s (r : Fin 11) => decRound s rk[r])
    (fun s r => encRound s rk[r]) (fun s r => encRound_invSubShift_decRound s rk[r])
    middleRounds.reverse (addRoundKey s rk[10])
  rw [List.reverse_reverse] at hrounds
  rw [cipher, invCipher, decFinal_eq, addRoundKey_addRoundKey, hrounds, encFinal_eq,
    subShift_invSubShift, addRoundKey_addRoundKey]

/-- Settles O48: both hold under any eleven round keys, so under a schedule's. -/
theorem decipherUndoesEncipher : Obligations.DecipherUndoesEncipher := by
  unfold Obligations.DecipherUndoesEncipher
  exact fun s k => ⟨invCipher_cipher s _, cipher_invCipher s _⟩

end Sys2Proof.Machine

/-! PROOF. Whole runs (44_cipher.md R102, R109): a position of R101's table is told by its direction and
the number of steps left after its own, so one induction on that number runs ENCRYPT and DECRYPT to their end. -/

namespace Sys2Proof.Machine

/-! The positions by the steps that are left after them. -/

/-- PHASE where `m` steps are left after this one: INIT is the first of eleven, FINAL the last (R101). -/
def phaseLeft : Nat → Phase
  | 0 => .final
  | 10 => .init
  | _ => .rnd

/-- ROUND where `m` steps are left after this one: it counts up to 10, or down to 0 (R103 to R108). -/
def roundLeft : Dir → Nat → BitVec 4
  | .encrypt, m => BitVec.ofNat 4 (10 - m)
  | .decrypt, m => BitVec.ofNat 4 m

/-- What the step in a phase does with STATE and a round key (R103 to R108). -/
def roundFn : Dir → Phase → Block → Block → Block
  | _, .idle => fun x _ => x
  | _, .init => addRoundKey
  | .encrypt, .rnd => encRound
  | .encrypt, .final => encFinal
  | .decrypt, .rnd => decRound
  | .decrypt, .final => decFinal

theorem phaseLeft_of_middle (m : Nat) (h1 : 1 ≤ m) (h9 : m ≤ 9) : phaseLeft m = .rnd := by
  unfold phaseLeft
  split
  case h_1 | h_2 => omega
  case h_3 => rfl

/-- Each number of steps left is a position of the table. -/
theorem runPosition_left (d : Dir) (m : Fin 11) :
    runPosition (phaseLeft m) d (roundLeft d m) = true := by
  revert m
  cases d <;> decide

/-- Each position of the table has its number of steps left. -/
theorem exists_left_of_runPosition (p : Phase) (d : Dir) (r : BitVec 4)
    (h : runPosition p d r = true) : ∃ m : Fin 11, p = phaseLeft m ∧ r = roundLeft d m := by
  revert r
  cases p <;> cases d <;> decide

/-- ROUND counts to the index of a round key in every step of a run (R28). -/
theorem exists_roundLeft_eq_ofNat (d : Dir) (m : Nat) (hm : m ≤ 10) :
    ∃ i : Fin 11, roundLeft d m = BitVec.ofNat 4 i := by
  cases d
  case encrypt => exact ⟨⟨10 - m, by omega⟩, rfl⟩
  case decrypt => exact ⟨⟨m, by omega⟩, rfl⟩

/-- The position after a middle round of ENCRYPT (R104). -/
theorem left_after_encRound (m : Fin 9) :
    (if roundLeft .encrypt (m + 1) = 9#4 then .final else .rnd) = phaseLeft m ∧
      roundLeft .encrypt (m + 1) + 1#4 = roundLeft .encrypt m := by
  revert m
  decide

/-- The position after a middle round of DECRYPT (R107). -/
theorem left_after_decRound (m : Fin 9) :
    (if roundLeft .decrypt (m + 1) = 1#4 then .final else .rnd) = phaseLeft m ∧
      roundLeft .decrypt (m + 1) - 1#4 = roundLeft .decrypt m := by
  revert m
  decide

/-- Every step but the last of a run goes on to the position with one step less left. -/
theorem tableStep_left (s : State) (d : Dir) (m : Nat) (hm : m < 10)
    (hr : s.round = roundLeft d (m + 1)) :
    tableStep (phaseLeft (m + 1)) d s =
      (s.mapStateWithKey (roundFn d (phaseLeft (m + 1))) s.round).setPosition (phaseLeft m)
        (roundLeft d m) := by
  obtain rfl | hm9 : m = 9 ∨ m < 9 := by omega
  case inl => cases d <;> rfl
  case inr =>
    rw [phaseLeft_of_middle (m + 1) (by omega) (by omega)]
    cases d
    case encrypt =>
      obtain ⟨hphase, hround⟩ := left_after_encRound ⟨m, hm9⟩
      rw [tableStep, encRoundStep_eq, hr, hphase, hround]
      rfl
    case decrypt =>
      obtain ⟨hphase, hround⟩ := left_after_decRound ⟨m, hm9⟩
      rw [tableStep, decRoundStep_eq, hr, hphase, hround]
      rfl

/-- A run is going, and `m` steps of it are left after the next one. -/
structure State.AtStep (s : State) (m : Nat) : Prop where
  busy : s.busy = true
  phase : s.phase = phaseLeft m
  round : s.round = roundLeft s.dir m

/-! From a position to the end of the run. -/

/-- STATE after the next step and the `m` steps left after it, from `x`, with the round keys `key`. -/
def roundsLeft (d : Dir) (key : BitVec 4 → Block) : Nat → Block → Block
  | 0, x => roundFn d .final x (key (roundLeft d 0))
  | m + 1, x => roundsLeft d key m (roundFn d (phaseLeft (m + 1)) x (key (roundLeft d (m + 1))))

/-- The round key of the step that leaves `m` more to come holds no value (R11). -/
def State.keyMissing (s : State) (m : Nat) : Bool := !(s.roundKeyReg (roundLeft s.dir m)).written

/-- The end of a run with `m` steps left after the next one, and `es` the turns that come then. -/
def State.runEnd (s : State) (m : Nat) (es : List Turn) : State :=
  { s with
    state := Reg.of (roundsLeft s.dir (fun n => (s.roundKeyReg n).value) m s.state.value)
    busy := false
    phase := .idle
    round := roundLeft s.dir 0
    order := es
    uninit := s.uninit || !s.state.written || (List.range (m + 1)).any s.keyMissing }

/-- The state after a step that leaves `m` more to come. -/
def State.afterStep (s : State) (m : Nat) : State :=
  ({ s with order := s.order.tail }.mapStateWithKey (roundFn s.dir (phaseLeft (m + 1)))
    (roundLeft s.dir (m + 1))).setPosition (phaseLeft m) (roundLeft s.dir m)

/-- The run ends where it would have ended: the step takes the first of the rounds that are left. -/
theorem State.afterStep_runEnd (s : State) (m : Nat) (es : List Turn) :
    (s.afterStep m).runEnd m es = s.runEnd (m + 1) es := by
  have hany : (List.range (m + 1 + 1)).any s.keyMissing =
      (s.keyMissing (m + 1) || (List.range (m + 1)).any s.keyMissing) := by
    simp [List.range_succ (n := m + 1), Bool.or_comm]
  have huninit : ((s.afterStep m).runEnd m es).uninit = (s.runEnd (m + 1) es).uninit := by
    change (s.uninit || !s.state.written || s.keyMissing (m + 1) || false ||
      (List.range (m + 1)).any s.keyMissing) =
        (s.uninit || !s.state.written || (List.range (m + 1 + 1)).any s.keyMissing)
    rw [hany, Bool.or_false, Bool.or_assoc]
  exact State.ext rfl rfl rfl rfl rfl rfl rfl rfl rfl rfl rfl rfl huninit

section
variable {s : State} {m : Nat}

/-- The step from a position, where no turn of the host's comes next. -/
theorem State.AtStep.step_eq (h : s.AtStep m) (hm : m ≤ 10)
    (ho : ∀ e ∈ s.order.take (m + 1), e = .sequencer) :
    step s = .next (tableStep (phaseLeft m) s.dir { s with order := s.order.tail }) := by
  have hseq : sequencerStep { s with order := s.order.tail } =
      .next (tableStep (phaseLeft m) s.dir { s with order := s.order.tail }) :=
    sequencerStep_of_runPosition h.busy h.phase rfl h.round (runPosition_left s.dir ⟨m, by omega⟩)
  rw [← hseq]
  cases horder : s.order with
  | nil => rw [step_run_goes_on s horder h.busy, List.tail_nil, ← horder]
  | cons e es =>
    obtain rfl : e = .sequencer := ho e (by simp [horder])
    exact step_sequencer s es horder

/-- The last step of a run ends it (R105, R108). -/
theorem State.AtStep.tableStep_zero (h : s.AtStep 0) (es : List Turn) :
    tableStep (phaseLeft 0) s.dir { s with order := es } = s.runEnd 0 es := by
  have hlast : ∀ t : State, tableStep .final s.dir t =
      (t.mapStateWithKey (roundFn s.dir .final) t.round).endRun := by
    cases s.dir <;> exact fun _ => rfl
  have hkeys : s.keyMissing 0 = (List.range 1).any s.keyMissing := (Bool.or_false _).symm
  rw [phaseLeft, hlast, State.runEnd, ← hkeys, ← h.round, State.keyMissing, roundsLeft, ← h.round]
  rfl

/-- Every other step goes on (R103, R104, R106, R107). -/
theorem State.AtStep.tableStep_succ (h : s.AtStep (m + 1)) (hm : m < 10) :
    tableStep (phaseLeft (m + 1)) s.dir { s with order := s.order.tail } = s.afterStep m := by
  rw [tableStep_left { s with order := s.order.tail } _ m hm h.round, h.round]
  rfl

/-- The position after a step. -/
theorem State.AtStep.afterStep (h : s.AtStep (m + 1)) : (s.afterStep m).AtStep m :=
  ⟨h.busy, rfl, rfl⟩

end

/-- As long as no turn of the host's comes between, a run goes on to its end. -/
theorem State.AtStep.runSteps_eq {s : State} {m : Nat} (h : s.AtStep m) (hm : m ≤ 10)
    (ho : ∀ e ∈ s.order.take (m + 1), e = .sequencer) :
    runSteps (m + 1) s = .next (s.runEnd m (s.order.drop (m + 1))) := by
  induction m generalizing s with
  | zero =>
    rw [runSteps_succ 0 s _ (h.step_eq hm ho), h.tableStep_zero, List.drop_one]
    rfl
  | succ m ih =>
    have hrest : ∀ e ∈ (s.afterStep m).order.take (m + 1), e = .sequencer := fun e he =>
      ho e (List.mem_of_mem_tail (by rwa [List.tail_take_eq_take_tail]))
    rw [runSteps_succ _ s _ (h.step_eq hm ho), h.tableStep_succ hm, ih h.afterStep (by omega) hrest,
      s.afterStep_runEnd, ← List.drop_tail (l := s.order)]
    rfl

/-! The two runs (R109). -/

/-- The eleven rounds of ENCRYPT are those of the cipher (R98). -/
theorem roundsLeft_encrypt (key : BitVec 4 → Block) (ks : Vector Block 11) (x : Block)
    (hk : ∀ (i : Nat) (h : i < 11), key (BitVec.ofNat 4 i) = ks[i]) :
    roundsLeft .encrypt key 10 x = cipher x ks := by
  simp [roundsLeft, roundLeft, phaseLeft, roundFn, hk, cipher, middleRounds]

/-- The eleven rounds of DECRYPT are those of the inverse cipher (R99). -/
theorem roundsLeft_decrypt (key : BitVec 4 → Block) (ks : Vector Block 11) (x : Block)
    (hk : ∀ (i : Nat) (h : i < 11), key (BitVec.ofNat 4 i) = ks[i]) :
    roundsLeft .decrypt key 10 x = invCipher x ks := by
  simp [roundsLeft, roundLeft, phaseLeft, roundFn, hk, invCipher, middleRounds]

/-- Eleven steps from the start of a run, where STATE and every round key hold a value: no model fault
is recorded on the way. -/
theorem State.AtStep.runSteps_eleven {s : State} {es : List Turn} {x : Block}
    {ks : Vector Block 11} (h : s.AtStep 10) (ho : s.order = List.replicate 11 .sequencer ++ es)
    (hx : s.state = Reg.of x) (hk : ∀ i : Fin 11, s.rk[i] = Reg.of ks[i]) :
    runSteps 11 s = .next { s with
      order := es
      state := Reg.of (roundsLeft s.dir (fun n => (s.roundKeyReg n).value) 10 x)
      phase := .idle
      round := roundLeft s.dir 0
      busy := false } := by
  have hmissing : (List.range 11).any s.keyMissing = false := by
    refine List.any_eq_false.2 fun j hj => ?_
    obtain ⟨i, hi⟩ := exists_roundLeft_eq_ofNat s.dir j (Nat.le_of_lt_succ (List.mem_range.1 hj))
    simp [State.keyMissing, hi, hk]
  have hturns : ∀ e ∈ s.order.take 11, e = .sequencer := by simp [ho]
  have hdrop : s.order.drop 11 = es := by rw [ho]; rfl
  rw [h.runSteps_eq le_rfl hturns, hdrop, State.runEnd, hmissing, hx]
  simp

/-- The round keys that ROUND names in a run, by their indices. -/
theorem roundKeyReg_value_of_eq {s : State} {ks : Vector Block 11}
    (hk : ∀ i : Fin 11, s.rk[i] = Reg.of ks[i]) (i : Nat) (hi : i < 11) :
    (s.roundKeyReg (BitVec.ofNat 4 i)).value = ks[i] := by
  rw [s.roundKeyReg_ofNat ⟨i, hi⟩, hk]
  rfl

/-- Settles O46: ENCRYPT starts with ten steps left after the first, and its rounds are the cipher's. -/
theorem elevenEncryptStepsComputeCipher : Obligations.ElevenEncryptStepsComputeCipher := by
  unfold Obligations.ElevenEncryptStepsComputeCipher
  intro s es x ks hb hp hd hr ho hx hk
  have hat : s.AtStep 10 := ⟨hb, hp, by rw [hd]; exact hr⟩
  rw [hat.runSteps_eleven ho hx hk, hd, roundsLeft_encrypt _ ks x (roundKeyReg_value_of_eq hk)]
  rfl

/-- Settles O47: DECRYPT starts with ten steps left after the first, and its rounds are the inverse
cipher's. -/
theorem elevenDecryptStepsComputeInvCipher : Obligations.ElevenDecryptStepsComputeInvCipher := by
  unfold Obligations.ElevenDecryptStepsComputeInvCipher
  intro s es x ks hb hp hd hr ho hx hk
  have hat : s.AtStep 10 := ⟨hb, hp, by rw [hd]; exact hr⟩
  rw [hat.runSteps_eleven ho hx hk, hd, roundsLeft_decrypt _ ks x (roundKeyReg_value_of_eq hk)]
  rfl

/-! The end of every run (R102). -/

/-- In every reachable state with BUSY = 1 the run stands at a position of the table (R27, R28). -/
theorem State.Inv.exists_atStep {s : State} (hs : s.Inv) (hb : s.busy = true) :
    ∃ m : Fin 11, s.AtStep m := by
  obtain ⟨hbusy, hpos, -, -⟩ := hs
  obtain ⟨hidle, -⟩ | hrun := hpos
  case inl => exact absurd hidle (hbusy.1 hb)
  case inr =>
    obtain ⟨m, hp, hr⟩ := exists_left_of_runPosition _ _ _ hrun
    exact ⟨m, hb, hp, hr⟩

/-- Settles O49: a run with `m` steps left after the next one is over after `m + 1` steps, and the turns
after it are the host's. -/
theorem everyRunEndsWithinElevenSteps : Obligations.EveryRunEndsWithinElevenSteps := by
  unfold Obligations.EveryRunEndsWithinElevenSteps
  intro s hs hb ho
  obtain ⟨m, hat⟩ := hs.exists_atStep hb
  have hrun : runSteps (m + 1) s = .next (s.runEnd m []) := by
    rw [hat.runSteps_eq (by omega) (by simp [ho]), ho, List.drop_nil]
  have hhost : step (s.runEnd m []) = hostTurn (s.runEnd m []) := step_host_goes_on _ rfl rfl
  refine ⟨m + 1, _, by omega, by omega, hrun, rfl, rfl, rfl, ⟨rfl, rfl, rfl⟩, ⟨rfl, ho.symm, rfl⟩,
    fun hp => ?nothing, fun ms hp => ?poll⟩
  case nothing => rw [hhost, hostTurn_of_nil (s.runEnd m []) hp]
  case poll =>
    rw [hhost, hostTurn_of_poll (s.runEnd m []) ms hp]
    exact ⟨_, rfl, rfl, ⟨rfl, rfl, rfl⟩, ⟨rfl, rfl, rfl, rfl⟩, rfl, rfl⟩

end Sys2Proof.Machine

/-! PROOF. The host's access to the registers (45_host_access.md): what a read of each index gives back,
what a write of each index does, and that every instruction answers a next state. -/

namespace Sys2Proof.Machine

/-! Payloads. -/

/-- A round key's payload has 16 bytes (R49). -/
theorem payloadBytes_of_isRoundKeyIdx (idx : BitVec 5) (h : isRoundKeyIdx idx = true) :
    payloadBytes idx = 16 := by
  revert idx
  decide

/-- A reserved index names no register (R35). -/
theorem ne_of_isReservedIdx (idx : BitVec 5) (h : isReservedIdx idx = true) :
    idx ≠ cmdIdx ∧ idx ≠ statusIdx ∧ idx ≠ keyIdx ∧ idx ≠ stateIdx ∧ isRoundKeyIdx idx = false := by
  revert idx
  decide

/-- A reserved index's payload has one byte (R49). -/
theorem payloadBytes_of_isReservedIdx (idx : BitVec 5) (h : isReservedIdx idx = true) :
    payloadBytes idx = 1 := by
  obtain ⟨-, hstatus, hkey, hstate, hrk⟩ := ne_of_isReservedIdx idx h
  simp [payloadBytes, hstatus, hkey, hstate, hrk]

/-- The bytes of a 128-bit register, the most significant first (R37). -/
theorem bytesOf_sixteen (v : Block) :
    bytesOf 16 v = (List.range 16).map fun j => v.extractLsb' (120 - 8 * j) 8 := by
  refine List.map_congr_left fun j _ => ?_
  rw [show 8 * (16 - 1 - j) = 120 - 8 * j by omega]

/-- The bytes of STATUS, the high one first (R37, R117). -/
theorem bytesOf_two_setWidth (w : BitVec 16) :
    bytesOf 2 (w.setWidth 128) = [w.extractLsb' 8 8, w.extractLsb' 0 8] := by
  have hbyte : ∀ k, k ≤ 8 → (w.setWidth 128).extractLsb' k 8 = w.extractLsb' k 8 := by
    intro k hk
    ext j hj
    simp [show k + j < 128 by omega]
  exact congrArg₂ (fun a b => [a, b]) (hbyte 8 (by omega)) (hbyte 0 (by omega))

/-! A read. -/

/-- A reserved index reads 0x00 (R121). -/
theorem State.regRead_of_isReservedIdx (s : State) (idx : BitVec 5) (h : isReservedIdx idx = true) :
    s.regRead idx = Reg.of 0#128 := by
  obtain ⟨hcmd, hstatus, hkey, hstate, hrk⟩ := ne_of_isReservedIdx idx h
  simp [State.regRead, hcmd, hstatus, hkey, hstate, hrk]

/-- A read in full: the register's payload is given back, and recorded where it holds no value (R115). -/
theorem exec_rd_of_regRead (s : State) (idx : BitVec 5) (r : Reg) (bs : List Byte)
    (hr : s.regRead idx = r) (hbs : bytesOf (payloadBytes idx) r.value = bs) :
    exec (.rd idx) s = .next { s with output := s.output ++ bs, uninit := s.uninit || !r.written } := by
  subst hr hbs
  rfl

/-- A read of an index that always has a value records nothing (R116, R117, R121). -/
theorem exec_rd_of_value (s : State) (idx : BitVec 5) (v : Block) (bs : List Byte)
    (hr : s.regRead idx = Reg.of v) (hbs : bytesOf (payloadBytes idx) v = bs) :
    exec (.rd idx) s = .next { s with output := s.output ++ bs } := by
  simp [exec_rd_of_regRead s idx _ bs hr hbs]

/-- A read of a 128-bit register gives its sixteen bytes back (R118 to R120). -/
theorem exec_rd_of_block (s : State) (idx : BitVec 5) (r : Reg) (hr : s.regRead idx = r)
    (hw : payloadBytes idx = 16) :
    exec (.rd idx) s = .next { s with
      output := s.output ++ (List.range 16).map (fun j => r.value.extractLsb' (120 - 8 * j) 8),
      uninit := s.uninit || !r.written } :=
  exec_rd_of_regRead s idx r _ hr (hw ▸ bytesOf_sixteen r.value)

/-- Settles O28: each index reads a register of its own, whose payload has the index's width. -/
theorem readGivesTheRegistersPayload : Obligations.ReadGivesTheRegistersPayload := by
  unfold Obligations.ReadGivesTheRegistersPayload
  intro s
  refine ⟨?cmd, ?status, ?key, ?state, fun i => ?roundKey, fun idx h => ?reserved⟩
  case cmd => exact exec_rd_of_value s cmdIdx 0#128 _ rfl (by decide)
  case status => exact exec_rd_of_value s statusIdx _ _ rfl (bytesOf_two_setWidth s.statusWord)
  case key => exact exec_rd_of_block s keyIdx _ s.regRead_keyIdx rfl
  case state => exact exec_rd_of_block s stateIdx _ s.regRead_stateIdx rfl
  case roundKey =>
    have hidx : isRoundKeyIdx (rkIdx i) = true := by
      rw [isRoundKeyIdx_iff, rkIdx_toNat]
      omega
    exact exec_rd_of_block s _ _ (s.regRead_rkIdx i) (payloadBytes_of_isRoundKeyIdx _ hidx)
  case reserved =>
    have hbytes : bytesOf (payloadBytes idx) 0#128 = [0x00#8] := by
      rw [payloadBytes_of_isReservedIdx idx h]
      decide
    exact exec_rd_of_value s idx _ _ (s.regRead_of_isReservedIdx idx h) hbytes

/-! A write of an index other than CMD. -/

/-- A write of KEY or STATE takes place while idle and is rejected while BUSY (R124, R125, R132). -/
theorem State.next_whenIdle (s : State) (effect : State → State) :
    (s.busy = false → (.next (s.whenIdle effect) : Outcome) = .next (effect s)) ∧
      (s.busy = true → (.next (s.whenIdle effect) : Outcome) = .next (s.reject .busy)) := by
  obtain ⟨hb, heq⟩ | ⟨hb, heq⟩ := s.whenIdle_cases effect
  all_goals simp [hb, heq]

/-- A write of KEY (R124). -/
theorem exec_wr_keyIdx (v : Block) (s : State) :
    exec (.wr keyIdx v) s = .next (s.whenIdle (·.writeKey v)) := rfl

/-- A write of STATE (R125). -/
theorem exec_wr_stateIdx (v : Block) (s : State) :
    exec (.wr stateIdx v) s = .next (s.whenIdle (·.writeState v)) := rfl

/-- A write of any index but CMD, KEY and STATE is ignored (R126). -/
theorem exec_wr_of_ignored (idx : BitVec 5) (v : Block) (s : State) (hcmd : idx ≠ cmdIdx)
    (hkey : idx ≠ keyIdx) (hstate : idx ≠ stateIdx) : exec (.wr idx v) s = .next s := by
  simp [exec, execWr, hcmd, hkey, hstate]

/-- Everything a write of an index other than CMD can do. -/
theorem exec_wr_cases (idx : BitVec 5) (v : Block) (s : State) (hcmd : idx ≠ cmdIdx) :
    (idx = keyIdx ∧ s.busy = false ∧ exec (.wr idx v) s = .next (s.writeKey v)) ∨
      (idx = stateIdx ∧ s.busy = false ∧ exec (.wr idx v) s = .next (s.writeState v)) ∨
      ((idx = keyIdx ∨ idx = stateIdx) ∧ s.busy = true ∧
        exec (.wr idx v) s = .next (s.reject .busy)) ∨
      (idx ≠ keyIdx ∧ idx ≠ stateIdx ∧ exec (.wr idx v) s = .next s) := by
  by_cases hkey : idx = keyIdx
  · subst hkey
    rw [exec_wr_keyIdx]
    obtain ⟨hb, heq⟩ | ⟨hb, heq⟩ := s.whenIdle_cases (·.writeKey v)
    · exact .inl ⟨rfl, hb, by rw [heq]⟩
    · exact .inr (.inr (.inl ⟨.inl rfl, hb, by rw [heq]⟩))
  by_cases hstate : idx = stateIdx
  · subst hstate
    rw [exec_wr_stateIdx]
    obtain ⟨hb, heq⟩ | ⟨hb, heq⟩ := s.whenIdle_cases (·.writeState v)
    · exact .inr (.inl ⟨rfl, hb, by rw [heq]⟩)
    · exact .inr (.inr (.inl ⟨.inr rfl, hb, by rw [heq]⟩))
  exact .inr (.inr (.inr ⟨hkey, hstate, exec_wr_of_ignored idx v s hcmd hkey hstate⟩))

/-- Settles O38: the write sets its own register, or is rejected, or is ignored. -/
theorem registerWriteFrame : Obligations.RegisterWriteFrame := by
  unfold Obligations.RegisterWriteFrame
  intro idx v s t hcmd h
  obtain ⟨hidx, -, heq⟩ | ⟨hidx, -, heq⟩ | ⟨-, hb, heq⟩ | ⟨-, -, heq⟩ := exec_wr_cases idx v s hcmd
  all_goals cases heq.symm.trans h
  case inl =>
    exact ⟨rfl, ⟨rfl, rfl, rfl, rfl⟩, ⟨rfl, rfl, rfl⟩, rfl, absurd hidx, fun _ => rfl, fun _ => rfl⟩
  case inr.inl =>
    exact ⟨rfl, ⟨rfl, rfl, rfl, rfl⟩, ⟨rfl, rfl, rfl⟩, rfl, fun _ => ⟨rfl, rfl⟩, absurd hidx,
      fun _ => rfl⟩
  case inr.inr.inl =>
    obtain ⟨⟨hkey, hrk, hkv⟩, hrun, hhost⟩ := s.setECode_frame .busy
    exact ⟨hrk, hrun, hhost, rfl, fun _ => ⟨hkey, hkv⟩, fun _ => rfl, fun hidle => by simp [hb] at hidle⟩
  case inr.inr.inr =>
    exact ⟨rfl, ⟨rfl, rfl, rfl, rfl⟩, ⟨rfl, rfl, rfl⟩, rfl, fun _ => ⟨rfl, rfl⟩, fun _ => rfl,
      fun _ => rfl⟩

/-- Settles O30: a write of KEY is `writeKey` while idle and a rejection while BUSY. -/
theorem keyWriteSetsKeyAndClearsKv : Obligations.KeyWriteSetsKeyAndClearsKv := by
  unfold Obligations.KeyWriteSetsKeyAndClearsKv
  intro v s
  rw [exec_wr_keyIdx]
  exact s.next_whenIdle (·.writeKey v)

/-- Settles O31: a write of STATE is `writeState` while idle and a rejection while BUSY. -/
theorem stateWriteSetsStateOnly : Obligations.StateWriteSetsStateOnly := by
  unfold Obligations.StateWriteSetsStateOnly
  intro v s
  rw [exec_wr_stateIdx]
  exact s.next_whenIdle (·.writeState v)

/-- STATUS, the round keys and the reserved indices are none of CMD, KEY and STATE (R35). -/
theorem ne_of_ignoredIdx (idx : BitVec 5)
    (h : idx = statusIdx ∨ isRoundKeyIdx idx = true ∨ isReservedIdx idx = true) :
    idx ≠ cmdIdx ∧ idx ≠ keyIdx ∧ idx ≠ stateIdx := by
  revert idx
  decide

/-- Settles O32: these indices are none that a write reaches. -/
theorem otherWritesAreIgnored : Obligations.OtherWritesAreIgnored := by
  unfold Obligations.OtherWritesAreIgnored
  intro idx h
  obtain ⟨hcmd, hkey, hstate⟩ := ne_of_ignoredIdx idx h
  exact ⟨fun v s => exec_wr_of_ignored idx v s hcmd hkey hstate, fun hidx => hidx ▸ rfl,
    payloadBytes_of_isRoundKeyIdx idx, payloadBytes_of_isReservedIdx idx⟩

/-! A write of CMD. -/

/-- `WriteCmd` of a byte that decodes to a command runs it (R123). -/
theorem writeCmd_of_ok (c : Byte) (i : Instr) (s : State) (h : decodeCommand c = .ok i) :
    writeCmd c s = exec i s := by
  rw [← executeCommand_eq_exec i s (decodeCommand_isCommand c i h)]
  simp [writeCmd, h]

/-- Settles O11: the write is `WriteCmd` of the byte, which runs the decoded command. -/
theorem writeOfCmdRunsItsCommand : Obligations.WriteOfCmdRunsItsCommand := by
  unfold Obligations.WriteOfCmdRunsItsCommand
  intro c i s h
  rw [exec_wr_cmdIdx, writeCmd_of_ok c i s h]

/-! Every instruction answers a next state. -/

/-- A command answers a next state, accepted or rejected (R133). -/
theorem exec_command_next (i : Instr) (s : State) (h : formatOf i = .command) :
    ∃ t, exec i s = .next t := by
  cases i
  case rd | wr => cases h
  all_goals exact ⟨_, rfl⟩

/-- `WriteCmd` answers a next state for every byte, RESERVED ones too (R56, R123). -/
theorem writeCmd_next (c : Byte) (s : State) : ∃ t, writeCmd c s = .next t := by
  cases h : decodeCommand c with
  | ok i =>
    rw [writeCmd_of_ok c i s h]
    exact exec_command_next i s (decodeCommand_isCommand c i h)
  | error e => exact ⟨_, writeCmd_of_error c e s h⟩

/-- A write answers a next state, whatever its index (R122). -/
theorem exec_wr_next (idx : BitVec 5) (v : Block) (s : State) : ∃ t, exec (.wr idx v) s = .next t := by
  by_cases hcmd : idx = cmdIdx
  · subst hcmd
    exact writeCmd_next (v.setWidth 8) s
  · obtain ⟨-, -, heq⟩ | ⟨-, -, heq⟩ | ⟨-, -, heq⟩ | ⟨-, -, heq⟩ := exec_wr_cases idx v s hcmd
    all_goals exact ⟨_, heq⟩

/-- Settles O13: a read, a write and a command each answer a next state. -/
theorem everyInstructionAnswersANextState : Obligations.EveryInstructionAnswersANextState := by
  unfold Obligations.EveryInstructionAnswersANextState
  intro i s
  cases i
  case rd => exact ⟨_, rfl⟩
  case wr idx v => exact exec_wr_next idx v s
  all_goals exact exec_command_next _ s rfl

end Sys2Proof.Machine

/-! PROOF. Errors (60_exceptions.md): what a rejected command or write leaves, who writes ECODE, and who
records UNINIT. -/

namespace Sys2Proof.Machine

/-! A command and its check (R123, R129, R131). -/

/-- Every command issues an effect that leaves ECODE to its check (R123). -/
theorem exec_command_eq_issue (i : Instr) (s : State) (hi : formatOf i = .command) :
    ∃ effect : State → State, exec i s = .next (s.issue (.ok i) effect) ∧
      ∀ u, (effect u).ecode = u.ecode := by
  cases i
  case rd | wr => cases hi
  all_goals exact ⟨_, rfl, fun _ => rfl⟩

/-- So does every byte written to CMD, a RESERVED one too (R56, R123). -/
theorem writeCmd_eq_issue (c : Byte) (s : State) :
    ∃ effect : State → State, writeCmd c s = .next (s.issue (decodeCommand c) effect) ∧
      ∀ u, (effect u).ecode = u.ecode := by
  cases hd : decodeCommand c with
  | ok i =>
    rw [writeCmd_of_ok c i s hd]
    exact exec_command_eq_issue i s (decodeCommand_isCommand c i hd)
  | error e => exact ⟨fun u => u, by simp [writeCmd, hd], fun _ => rfl⟩

/-- ECODE after a command is the code of its check: 0 where none fails (R129). -/
theorem State.issue_ecode (s : State) (cmd : Except DecodeError Instr) (effect : State → State)
    (heffect : ∀ u, (effect u).ecode = u.ecode) : (s.issue cmd effect).ecode = s.check cmd := by
  obtain ⟨hc, heq⟩ | ⟨-, heq⟩ := s.issue_cases cmd effect
  · rw [heq, heffect, hc, State.setECode_ecode]
  · rw [heq, State.reject_ecode]

/-- A write of CMD leaves the code of its check in ECODE (R129). -/
theorem ecode_of_writeCmd (c : Byte) (s t : State) (h : writeCmd c s = .next t) :
    t.ecode = s.check (decodeCommand c) := by
  obtain ⟨effect, heq, heffect⟩ := writeCmd_eq_issue c s
  cases heq.symm.trans h
  exact s.issue_ecode _ effect heffect

/-- A write of CMD whose check fails only writes the code of the check (R131). -/
theorem writeCmd_of_rejected (c : Byte) (s : State) (h : s.check (decodeCommand c) ≠ .none) :
    writeCmd c s = .next (s.reject (s.check (decodeCommand c))) := by
  obtain ⟨effect, heq, -⟩ := writeCmd_eq_issue c s
  rw [heq, s.issue_of_rejected _ effect h]

/-- A command whose check fails only writes the code of the check (R131). -/
theorem exec_command_of_rejected (i : Instr) (s : State) (hi : formatOf i = .command)
    (h : s.check (.ok i) ≠ .none) : exec i s = .next (s.reject (s.check (.ok i))) := by
  obtain ⟨effect, heq, -⟩ := exec_command_eq_issue i s hi
  rw [heq, s.issue_of_rejected _ effect h]

/-! A write of KEY or STATE and its check (R124, R125). -/

/-- A write of KEY or STATE has the BUSY check alone, and an effect that keeps ECODE. -/
theorem exec_wr_register_eq_whenIdle (idx : BitVec 5) (v : Block) (s : State)
    (hidx : idx = keyIdx ∨ idx = stateIdx) :
    ∃ effect : State → State, exec (.wr idx v) s = .next (s.whenIdle effect) ∧
      (effect s).ecode = s.ecode := by
  obtain rfl | rfl := hidx
  · exact ⟨_, exec_wr_keyIdx v s, rfl⟩
  · exact ⟨_, exec_wr_stateIdx v s, rfl⟩

/-- A write of KEY or STATE while BUSY is rejected (R131, R132). -/
theorem exec_wr_register_of_busy (idx : BitVec 5) (v : Block) (s : State)
    (hidx : idx = keyIdx ∨ idx = stateIdx) (hb : s.busy = true) :
    exec (.wr idx v) s = .next (s.reject .busy) := by
  obtain ⟨effect, heq, -⟩ := exec_wr_register_eq_whenIdle idx v s hidx
  rw [heq]
  exact (s.next_whenIdle effect).2 hb

/-! What the checks of R129 ask of a command. -/

/-- The commands that need the schedule, by name (R129). -/
theorem needsSchedule_iff (i : Instr) :
    needsSchedule i = true ↔ i = .encrypt ∨ i = .decrypt ∨ ∃ n, i = .addRoundKey n := by
  cases i <;> simp [needsSchedule]

/-- The commands whose operand names no round key (R53, R129). -/
theorem namesNoRoundKey_iff (i : Instr) :
    namesNoRoundKey i = true ↔ ∃ n : BitVec 4, i = .addRoundKey n ∧ 10 < n.toNat := by
  cases i <;> simp [namesNoRoundKey]

/-- Settles O23: ECODE after a write of CMD is the code of `Check`, which each clause evaluates. -/
theorem cmdWriteReportsTheFirstFailedCheck : Obligations.CmdWriteReportsTheFirstFailedCheck := by
  unfold Obligations.CmdWriteReportsTheFirstFailedCheck
  constructor
  · intro c s t h
    rw [exec_wr_cmdIdx] at h
    rw [ecode_of_writeCmd c s t h]
    refine ⟨s.check_busy _, ?illegalOp, ?noSchedule, ?badRound, ?accepted⟩
    case illegalOp =>
      intro hb hres
      cases hd : decodeCommand c with
      | ok i => exact absurd hd (hres i)
      | error e => exact s.check_error e hb
    case noSchedule =>
      intro i hb hd hi hkv
      simp [hd, s.check_ok i hb, (needsSchedule_iff i).2 hi, hkv]
    case badRound =>
      intro n hb hd hkv hn
      rw [hd, s.check_addRoundKey_of_idle n hb, if_neg (by simp [hkv]), if_pos hn]
    case accepted =>
      intro i hb hd hsched hround
      rw [← needsSchedule_iff, not_and, Bool.not_eq_false] at hsched
      rw [← namesNoRoundKey_iff, Bool.not_eq_true] at hround
      rw [hd, s.check_ok_eq_none_iff]
      exact ⟨hb, hsched, hround⟩
  · intro idx v s t hidx h
    obtain ⟨effect, heq, hecode⟩ := exec_wr_register_eq_whenIdle idx v s hidx
    cases heq.symm.trans h
    obtain ⟨hb, hw⟩ | ⟨hb, hw⟩ := s.whenIdle_cases effect
    · simpa [hw, hb] using hecode
    · simp [hw, hb]

/-- Settles O24: a failed check ends in `reject`, which writes ECODE alone. -/
theorem rejectionChangesOnlyTheErrorCode : Obligations.RejectionChangesOnlyTheErrorCode := by
  unfold Obligations.RejectionChangesOnlyTheErrorCode
  constructor
  · intro c s h
    rw [exec_wr_cmdIdx]
    exact writeCmd_of_rejected c s h
  · exact exec_wr_register_of_busy

/-- Settles O25: while BUSY every check of a command or write gives BUSY, and the other accesses have no
check. -/
theorem busyBlockTakesNoWrite : Obligations.BusyBlockTakesNoWrite := by
  unfold Obligations.BusyBlockTakesNoWrite
  intro s hb
  have hcheck : ∀ cmd, s.check cmd = .busy := fun cmd => s.check_busy cmd hb
  refine ⟨fun v => ?cmd, fun v => exec_wr_register_of_busy _ v s (.inl rfl) hb,
    fun v => exec_wr_register_of_busy _ v s (.inr rfl) hb, fun i hi => ?command,
    fun idx v => exec_wr_of_ignored idx v s, fun idx => ?read⟩
  case cmd =>
    rw [show exec (.wr cmdIdx v) s = writeCmd (v.setWidth 8) s from rfl,
      writeCmd_of_rejected _ s (by simp [hcheck]), hcheck]
    rfl
  case command =>
    rw [exec_command_of_rejected i s hi (by simp [hcheck]), hcheck]
    rfl
  case read =>
    obtain ⟨hblock, -⟩ := readFrame idx s _ rfl
    exact ⟨_, rfl, hblock⟩

/-- Settles O41: a read keeps ECODE, and so does a write that is neither one of CMD nor a rejected one of
KEY or STATE. -/
theorem onlyCommandsAndRejectionsWriteEcode : Obligations.OnlyCommandsAndRejectionsWriteEcode := by
  unfold Obligations.OnlyCommandsAndRejectionsWriteEcode
  constructor
  · intro i s t h hne
    cases i
    case rd idx =>
      cases h
      exact absurd rfl hne
    case wr idx v =>
      refine .inr ⟨idx, v, rfl, or_iff_not_imp_left.2 fun hcmd => ?_⟩
      obtain ⟨-, -, heq⟩ | ⟨-, -, heq⟩ | ⟨hidx, hb, -⟩ | ⟨-, -, heq⟩ := exec_wr_cases idx v s hcmd
      case inr.inr.inl => exact ⟨hidx, hb⟩
      all_goals
        cases heq.symm.trans h
        exact absurd rfl hne
    all_goals exact .inl rfl
  · intro s t h
    obtain ⟨-, -, hecode, -⟩ := sequencerFrame s t h
    exact hecode

/-! The record of UNINIT (R140): what keeps it and what it comes from. -/

/-- No instruction clears a recorded fault. -/
theorem exec_keeps_fault (i : Instr) (s t : State) (h : exec i s = .next t) (hu : s.uninit = true) :
    t.uninit = true := by
  cases exec_effect i s t h with
  | kept _ _ fault => exact fault hu
  | keyWritten | expanded | runStarted => simp [hu]

/-- No sequencer step clears a recorded fault. -/
theorem sequencerStep_keeps_fault (s t : State) (h : sequencerStep s = .next t)
    (hu : s.uninit = true) : t.uninit = true := by
  obtain ⟨-, rfl⟩ | ⟨hb, -⟩ := sequencerStep_runStep s t h
  · exact hu
  · simp [uninit_of_sequencerStep s t hb h, hu]

/-- No step clears a recorded fault, not even a reset. -/
theorem step_keeps_fault (s t : State) (h : step s = .next t) (hu : s.uninit = true) :
    t.uninit = true := by
  obtain ⟨es, ms, rfl | ⟨i, hexec⟩ | hseq | ⟨-, rfl⟩⟩ := step_event s t h
  · exact hu
  · exact exec_keeps_fault i _ t hexec hu
  · exact sequencerStep_keeps_fault _ t hseq hu
  · exact hu

/-- A command that changes the record is accepted and reads a register without a value. -/
theorem exists_unwritten_of_exec_command (i : Instr) (s t : State) (hi : formatOf i = .command)
    (h : exec i s = .next t) (hne : t.uninit ≠ s.uninit) :
    ∃ r ∈ commandReads i s, r.written = false := by
  by_cases hc : s.check (.ok i) = .none
  · rw [uninit_of_exec_accepted i s t hi hc h] at hne
    have hany : ((commandReads i s).any fun r => !r.written) = true := by
      by_contra hnone
      simp [Bool.eq_false_iff.2 hnone] at hne
    simpa using hany
  · cases (exec_command_of_rejected i s hi hc).symm.trans h
    exact absurd rfl hne

/-- A write that changes the record is one of CMD, with the byte of a command that reads a register
without a value. -/
theorem exists_unwritten_of_exec_wr (idx : BitVec 5) (v : Block) (s t : State)
    (h : exec (.wr idx v) s = .next t) (hne : t.uninit ≠ s.uninit) :
    ∃ j, Carries (.wr idx v) j ∧ ∃ r ∈ commandReads j s, r.written = false := by
  by_cases hcmd : idx = cmdIdx
  case pos =>
    subst hcmd
    replace h : writeCmd (v.setWidth 8) s = .next t := h
    cases hd : decodeCommand (v.setWidth 8) with
    | ok j =>
      rw [writeCmd_of_ok _ j s hd] at h
      exact ⟨j, .inr ⟨v, rfl, hd⟩,
        exists_unwritten_of_exec_command j s t (decodeCommand_isCommand _ j hd) h hne⟩
    | error e =>
      cases (writeCmd_of_error _ e s hd).symm.trans h
      exact absurd rfl hne
  case neg =>
    obtain ⟨-, -, heq⟩ | ⟨-, -, heq⟩ | ⟨-, -, heq⟩ | ⟨-, -, heq⟩ := exec_wr_cases idx v s hcmd
    all_goals
      cases heq.symm.trans h
      exact absurd rfl hne

/-- A read of a POLL records nothing: STATUS always has a value (R117). -/
theorem uninit_of_pollTurn (ms : List HostMove) (s t : State) (h : pollTurn ms s = .next t) :
    t.uninit = s.uninit := by
  rw [pollTurn_eq] at h
  rw [uninit_of_exec_rd _ _ t h]
  split <;> exact Bool.or_false _

/-- The host's turn changes the record only by a transaction it sends. -/
theorem exists_send_of_hostTurn (s t : State) (h : hostTurn s = .next t)
    (hne : t.uninit ≠ s.uninit) :
    ∃ bs ms i, s.program = .send bs :: ms ∧ decode .transaction bs = .ok (i, []) ∧
      exec i { s with program := ms } = .next t := by
  obtain ⟨-, rfl⟩ | hsend | ⟨ms, -, hpoll⟩ | ⟨ms, -, rfl⟩ := hostTurn_cases s t h
  · exact absurd rfl hne
  · exact hsend
  · exact absurd (uninit_of_pollTurn ms s t hpoll) hne
  · exact absurd rfl hne

@[simp] theorem takeTurn_program (s : State) : (takeTurn s).2.program = s.program := by
  obtain ⟨es, hes⟩ := takeTurn_state s
  rw [hes]

@[simp] theorem takeTurn_uninit (s : State) : (takeTurn s).2.uninit = s.uninit := by
  obtain ⟨es, hes⟩ := takeTurn_state s
  rw [hes]

/-- Settles O27: no event clears the record, and each kind of event adds to it for the registers it reads
alone. -/
theorem recordedModelFaultStays : Obligations.RecordedModelFaultStays := by
  unfold Obligations.RecordedModelFaultStays
  refine ⟨step_keeps_fault, ?instruction, ?sequencer, ?step⟩
  case instruction =>
    intro i s t h hne
    cases i
    case rd idx =>
      rw [uninit_of_exec_rd idx s t h] at hne
      refine .inl ⟨idx, rfl, Bool.eq_false_iff.2 fun hw => ?_⟩
      simp [hw] at hne
    case wr idx v => exact .inr (exists_unwritten_of_exec_wr idx v s t h hne)
    all_goals exact .inr ⟨_, .inl rfl, exists_unwritten_of_exec_command _ s t rfl h hne⟩
  case sequencer =>
    intro s t h hne
    obtain ⟨-, rfl⟩ | ⟨hb, -⟩ := sequencerStep_runStep s t h
    · exact absurd rfl hne
    refine ⟨hb, ?_⟩
    by_contra hw
    obtain ⟨hstate, hrk⟩ := not_or.1 hw
    rw [Bool.not_eq_false] at hstate hrk
    simp [uninit_of_sequencerStep s t hb h, hstate, hrk] at hne
  case step =>
    intro s t h hne
    obtain ⟨-, hhost⟩ | ⟨-, hseq⟩ := step_cases s t h
    · rw [← takeTurn_uninit s] at hne
      rw [← takeTurn_program s]
      exact .inr (exists_send_of_hostTurn _ t hhost hne)
    · exact .inl hseq

end Sys2Proof.Machine

/-! PROOF. The reset input (70_reset_and_hazards.md R142): what the event leaves of the block. -/

namespace Sys2Proof.Machine

/-- STATUS reads all zero after the reset event, whatever state it came in: as it does in the state
after reset, whose STATUS fields are the same (R33, R142). -/
@[simp] theorem State.resetBlock_statusWord (s : State) : s.resetBlock.statusWord = 0x0000#16 := by
  have hfields : s.resetBlock.statusWord = State.reset.statusWord := rfl
  rw [hfields]
  decide

/-- No round key holds a value after the reset event (R142). -/
theorem State.resetBlock_rk_written (s : State) (i : Fin 11) :
    s.resetBlock.rk[i].written = false := by
  have hreg : s.resetBlock.rk[i] = Reg.noValue := Vector.getElem_replicate i.isLt
  rw [hreg]
  rfl

/-- Settles O2: the step is the reset event on the state with the turn and the move taken, and the event's
field rules give each clause, whether a run is going or not. -/
theorem resetEventClearsTheBlock : Obligations.ResetEventClearsTheBlock := by
  unfold Obligations.ResetEventClearsTheBlock
  intro s es ms ho hp
  have hstep : step s = .next { s with order := es, program := ms }.resetBlock := by
    rw [step_host s es ho, hostTurn_of_reset { s with order := es } ms hp]
  exact ⟨_, hstep, rfl, rfl, rfl, rfl, rfl, rfl, State.resetBlock_statusWord _, rfl, rfl,
    State.resetBlock_rk_written _, rfl, rfl, rfl, rfl⟩

end Sys2Proof.Machine
